-- ==== Sys2Proof/Word.lean ====
section
/-! DEFINITION. The word types of URC-SPIM (00_scope.md rule R6). -/

namespace Sys2Proof

/-- `u8`: a byte on the bus, a sensor register's cell, an 8-bit working register. -/
abbrev Byte := BitVec 8

/-- `u32`: the millisecond clock, a command argument, a response's data. -/
abbrev Word := BitVec 32

/-- One 24-bit micro-op word (R68). -/
abbrev UWord := BitVec 24

/-- A 16-bit micro-ROM index, what `UPC` holds (R14). -/
abbrev UAddr := BitVec 16

end Sys2Proof
end

