-- ==== Sys2Proof/Syntax.lean ====
section
/-! DEFINITION. The instructions of URC-SPIM: the 21 micro-ops (R69), the six host commands (R65) and the three
wire frames (R60), one constructor per row of the opcode table. -/

namespace Sys2Proof

/-- `RD` destination selector (R70): `-`, `C1`, `C2`, `PIDR`, `REVR`, `PB0` .. `PB4`. -/
inductive Dst where
  | discard
  | c1
  | c2
  | pidr
  | revr
  | pb (k : Fin 5)
  deriving DecidableEq, Repr

/-- `WRR` source selector (R70). -/
inductive Src where
  | c1
  | c2
  | om
  deriving DecidableEq, Repr

/-- The response statuses 0 to 6 (R67). `END` may name the first four only (R72). -/
inductive Status where
  | ok
  | initError
  | timeout
  | invalidArg
  | badState
  | ufault
  | badCmd
  deriving DecidableEq, Repr

/-- `END` result select (R72). -/
inductive ResultSel where
  | none
  | id
  | burst
  | polled
  deriving DecidableEq, Repr

/-- `END` next-state select (R72). -/
inductive NextSel where
  | keep
  | ready
  | failed
  deriving DecidableEq, Repr

/-- An instruction (R2): a micro-op, a host command or a wire frame. A micro-op's `reg` is the word's whole
8-bit `a` field, of which bit 7 must be 0 (R69, 90_conflicts C4). -/
inductive Instr where
  -- micro-ops
  | wr (reg val : Byte)
  | wait (ms : BitVec 16)
  | rd (reg : Byte) (dst : Dst)
  | burst (reg : Byte)
  | cslo
  | cshi
  | jmp (target : UAddr)
  | bb7 (target : UAddr)
  | bnz (target : UAddr)
  | bqok (target : UAddr)
  | bdrdy (target : UAddr)
  | btmo (target : UAddr)
  | bidbad (target : UAddr)
  | bargbad (target : UAddr)
  | xf1
  | xf2
  | wrr (reg : Byte) (src : Src)
  | tstamp
  | omflg
  | omrot
  | endOp (status : Status) (result : ResultSel) (next : NextSel)
  -- host commands
  | init (arg : Word)
  | getId (arg : Word)
  | setRotation (arg : Word)
  | setOrientation (arg : Word)
  | getMotion (arg : Word)
  | getMotionSlow (arg : Word)
  -- wire frames
  | wFrame (reg : BitVec 7) (val : Byte)
  | rFrame (reg : BitVec 7)
  | bFrame
  deriving DecidableEq, Repr

end Sys2Proof
end

