-- ==== Sys2Proof/WellFormed.lean ====
section
/-! DEFINITION. Which terms of `Instr` stand for a legal encoding: the two restrictions R77 puts on operands that the
types of Syntax.lean do not already make. -/

namespace Sys2Proof

/-- A micro-op's register operand is a 7-bit address: bit 7 of the field is 0 (R69, R77). -/
def regOk (reg : Byte) : Bool := !reg.msb

/-- `END` may name the statuses 0 to 3 only: `BAD_STATE`, `UFAULT`, `BAD_CMD` are never encoded in a micro-op (R72). -/
def Status.encodable : Status → Bool
  | .ok | .initError | .timeout | .invalidArg => true
  | .badState | .ufault | .badCmd => false

/-- The instruction is one the encoding tables admit. -/
def Instr.wellFormed : Instr → Bool
  | .wr reg _ => regOk reg
  | .rd reg _ => regOk reg
  | .burst reg => regOk reg
  | .wrr reg _ => regOk reg
  | .endOp status _ _ => status.encodable
  | .wait _ | .cslo | .cshi | .jmp _ | .bb7 _ | .bnz _ | .bqok _ | .bdrdy _ | .btmo _ | .bidbad _ | .bargbad _
  | .xf1 | .xf2 | .tstamp | .omflg | .omrot => true
  | .init _ | .getId _ | .setRotation _ | .setOrientation _ | .getMotion _ | .getMotionSlow _ => true
  | .wFrame _ _ | .rFrame _ | .bFrame => true

end Sys2Proof
end

