-- ==== Sys2Proof/Decode.lean ====
section
/-! DEFINITION. The decoder of micro-op words, command words and wire frames (30_encoding.md), total, rejecting by
name; then the encoder, from the same tables. -/

namespace Sys2Proof

/-- An encoded instruction: a micro-op word (R68), a 35-bit command word `{cmd_op, cmd_arg}` (R65), or the bytes of a
wire frame in the order sent (R60). -/
inductive Code where
  | uop (w : UWord)
  | cmd (w : BitVec 35)
  | frame (bytes : List Byte)
  deriving DecidableEq, Repr

/-- Why a code is no instruction (R77). -/
inductive Reject where
  | reservedOpcode
  | unusedFieldSet
  | addressBit7Set
  | reservedDst
  | reservedSrc
  | reservedCondition
  | reservedStatus
  | reservedResult
  | reservedNext
  | burstCountNot12
  | reservedCommand
  | notAFrame
  deriving DecidableEq, Repr

/-! ## Fields of a micro-op word (R68) -/

def UWord.op (w : UWord) : BitVec 4 := w.extractLsb' 20 4
def UWord.x (w : UWord) : BitVec 4 := w.extractLsb' 16 4
def UWord.a (w : UWord) : Byte := w.extractLsb' 8 8
def UWord.b (w : UWord) : Byte := w.extractLsb' 0 8

/-- `{a, b}`: the 16-bit immediate (R73). -/
def UWord.ab (w : UWord) : BitVec 16 := w.extractLsb' 0 16

/-- The word with these fields. -/
def UWord.ofFields (op x : BitVec 4) (a b : Byte) : UWord := op ++ x ++ a ++ b

/-- The word with a 16-bit immediate. -/
def UWord.ofImm (op x : BitVec 4) (imm : BitVec 16) : UWord := op ++ x ++ imm

/-! ## Selectors -/

/-- R70, `RD` destination. -/
def Dst.ofCode : BitVec 4 → Except Reject Dst
  | 0#4 => .ok .discard
  | 1#4 => .ok .c1
  | 2#4 => .ok .c2
  | 3#4 => .ok .pidr
  | 4#4 => .ok .revr
  | 8#4 => .ok (.pb 0)
  | 9#4 => .ok (.pb 1)
  | 10#4 => .ok (.pb 2)
  | 11#4 => .ok (.pb 3)
  | 12#4 => .ok (.pb 4)
  | _ => .error .reservedDst

def Dst.code : Dst → BitVec 4
  | .discard => 0
  | .c1 => 1
  | .c2 => 2
  | .pidr => 3
  | .revr => 4
  | .pb k => BitVec.ofNat 4 (8 + k.val)

/-- R70, `WRR` source. -/
def Src.ofCode : BitVec 4 → Except Reject Src
  | 1#4 => .ok .c1
  | 2#4 => .ok .c2
  | 5#4 => .ok .om
  | _ => .error .reservedSrc

def Src.code : Src → BitVec 4
  | .c1 => 1
  | .c2 => 2
  | .om => 5

/-- R67: the status numbers. -/
def Status.code : Status → BitVec 3
  | .ok => 0
  | .initError => 1
  | .timeout => 2
  | .invalidArg => 3
  | .badState => 4
  | .ufault => 5
  | .badCmd => 6

/-- R72: `END`'s status field, 0 to 3. -/
def Status.ofField : Byte → Except Reject Status
  | 0#8 => .ok .ok
  | 1#8 => .ok .initError
  | 2#8 => .ok .timeout
  | 3#8 => .ok .invalidArg
  | _ => .error .reservedStatus

/-- R72: `END`'s result field. -/
def ResultSel.ofField : Byte → Except Reject ResultSel
  | 0#8 => .ok .none
  | 1#8 => .ok .id
  | 2#8 => .ok .burst
  | 3#8 => .ok .polled
  | _ => .error .reservedResult

def ResultSel.code : ResultSel → Byte
  | .none => 0
  | .id => 1
  | .burst => 2
  | .polled => 3

/-- R72: `END`'s next field. -/
def NextSel.ofCode : BitVec 4 → Except Reject NextSel
  | 0#4 => .ok .keep
  | 1#4 => .ok .ready
  | 2#4 => .ok .failed
  | _ => .error .reservedNext

def NextSel.code : NextSel → BitVec 4
  | .keep => 0
  | .ready => 1
  | .failed => 2

/-! ## The decoder -/

/-- A micro-op without operands: `x`, `a` and `b` must be 0 (R68, R77). -/
def decodeBare (w : UWord) (i : Instr) : Except Reject Instr :=
  if w.x = 0 ∧ w.ab = 0 then .ok i else .error .unusedFieldSet

/-- The branch conditions (R71). -/
def decodeBranch (cond : BitVec 4) (target : UAddr) : Except Reject Instr :=
  match cond with
  | 0#4 => .ok (.jmp target)
  | 1#4 => .ok (.bb7 target)
  | 2#4 => .ok (.bnz target)
  | 3#4 => .ok (.bqok target)
  | 4#4 => .ok (.bdrdy target)
  | 5#4 => .ok (.btmo target)
  | 6#4 => .ok (.bidbad target)
  | 7#4 => .ok (.bargbad target)
  | _ => .error .reservedCondition

/-- `WR` (R90): `x` is 0 and bit 7 of `a` is 0. -/
def decodeWr (w : UWord) : Except Reject Instr :=
  if w.x ≠ 0 then .error .unusedFieldSet
  else if w.a.msb then .error .addressBit7Set
  else .ok (.wr w.a w.b)

/-- `RD` (R92). -/
def decodeRd (w : UWord) : Except Reject Instr :=
  if w.b ≠ 0 then .error .unusedFieldSet
  else if w.a.msb then .error .addressBit7Set
  else match Dst.ofCode w.x with
    | .ok dst => .ok (.rd w.a dst)
    | .error e => .error e

/-- `BURST` (R95): `b` is the fixed count of dummy bytes, 12. -/
def decodeBurst (w : UWord) : Except Reject Instr :=
  if w.x ≠ 0 then .error .unusedFieldSet
  else if w.b ≠ 0x0C then .error .burstCountNot12
  else if w.a.msb then .error .addressBit7Set
  else .ok (.burst w.a)

/-- `WRR` (R91). -/
def decodeWrr (w : UWord) : Except Reject Instr :=
  if w.b ≠ 0 then .error .unusedFieldSet
  else if w.a.msb then .error .addressBit7Set
  else match Src.ofCode w.x with
    | .ok src => .ok (.wrr w.a src)
    | .error e => .error e

/-- `END` (R72, R110). -/
def decodeEnd (w : UWord) : Except Reject Instr :=
  match Status.ofField w.a, ResultSel.ofField w.b, NextSel.ofCode w.x with
  | .ok status, .ok result, .ok next => .ok (.endOp status result next)
  | .error e, _, _ => .error e
  | _, .error e, _ => .error e
  | _, _, .error e => .error e

/-- The opcode map (R69). -/
def decodeUop (w : UWord) : Except Reject Instr :=
  match w.op with
  | 0x0#4 => decodeWr w
  | 0x1#4 => if w.x = 0 then .ok (.wait w.ab) else .error .unusedFieldSet
  | 0x2#4 => decodeRd w
  | 0x3#4 => decodeBurst w
  | 0x4#4 => decodeBare w .cslo
  | 0x5#4 => decodeBare w .cshi
  | 0x6#4 => decodeBranch w.x w.ab
  | 0x7#4 => decodeBare w .xf1
  | 0x8#4 => decodeBare w .xf2
  | 0x9#4 => decodeWrr w
  | 0xA#4 => decodeBare w .tstamp
  | 0xB#4 => decodeBare w .omflg
  | 0xC#4 => decodeBare w .omrot
  | 0xD#4 => decodeEnd w
  | _ => .error .reservedOpcode

/-- The command codes (R65); 6 and 7 are reserved. -/
def decodeCmd (w : BitVec 35) : Except Reject Instr :=
  let arg : Word := w.extractLsb' 0 32
  match (w.extractLsb' 32 3 : BitVec 3) with
  | 0#3 => .ok (.init arg)
  | 1#3 => .ok (.getId arg)
  | 2#3 => .ok (.setRotation arg)
  | 3#3 => .ok (.setOrientation arg)
  | 4#3 => .ok (.getMotion arg)
  | 5#3 => .ok (.getMotionSlow arg)
  | _ => .error .reservedCommand

/-- W frame (R61): `[reg | 0x80, value]`. -/
def wFrameBytes (reg val : Byte) : List Byte := [reg ||| 0x80, val]

/-- R frame (R62): `[reg, 0x00]`. -/
def rFrameBytes (reg : Byte) : List Byte := [reg, 0x00]

/-- A burst read at `reg`: the address and twelve dummy bytes; the B frame is the one at 0x16 (R63, R95). -/
def burstBytes (reg : Byte) : List Byte := reg :: List.replicate 12 0x00

/-- The three frames of R60, told apart by length and by the write marker (R64). -/
def decodeFrame (bytes : List Byte) : Except Reject Instr :=
  match bytes with
  | [b0, b1] =>
    if b0.msb then .ok (.wFrame (b0.extractLsb' 0 7) b1)
    else if b1 = 0 then .ok (.rFrame (b0.extractLsb' 0 7))
    else .error .notAFrame
  | _ => if bytes = burstBytes 0x16 then .ok .bFrame else .error .notAFrame

/-- The decoder: total on any code. -/
def decode : Code → Except Reject Instr
  | .uop w => decodeUop w
  | .cmd w => decodeCmd w
  | .frame bytes => decodeFrame bytes

/-! ## The encoder -/

/-- `{cmd_op, cmd_arg}` (R65). -/
def cmdWord (op : BitVec 3) (arg : Word) : BitVec 35 := op ++ arg

/-- The code of an instruction, from the tables of R61 to R63, R65, R69 to R73. -/
def encode : Instr → Code
  | .wr reg val => .uop (UWord.ofFields 0x0 0 reg val)
  | .wait ms => .uop (UWord.ofImm 0x1 0 ms)
  | .rd reg dst => .uop (UWord.ofFields 0x2 dst.code reg 0)
  | .burst reg => .uop (UWord.ofFields 0x3 0 reg 0x0C)
  | .cslo => .uop (UWord.ofImm 0x4 0 0)
  | .cshi => .uop (UWord.ofImm 0x5 0 0)
  | .jmp t => .uop (UWord.ofImm 0x6 0 t)
  | .bb7 t => .uop (UWord.ofImm 0x6 1 t)
  | .bnz t => .uop (UWord.ofImm 0x6 2 t)
  | .bqok t => .uop (UWord.ofImm 0x6 3 t)
  | .bdrdy t => .uop (UWord.ofImm 0x6 4 t)
  | .btmo t => .uop (UWord.ofImm 0x6 5 t)
  | .bidbad t => .uop (UWord.ofImm 0x6 6 t)
  | .bargbad t => .uop (UWord.ofImm 0x6 7 t)
  | .xf1 => .uop (UWord.ofImm 0x7 0 0)
  | .xf2 => .uop (UWord.ofImm 0x8 0 0)
  | .wrr reg src => .uop (UWord.ofFields 0x9 src.code reg 0)
  | .tstamp => .uop (UWord.ofImm 0xA 0 0)
  | .omflg => .uop (UWord.ofImm 0xB 0 0)
  | .omrot => .uop (UWord.ofImm 0xC 0 0)
  | .endOp status result next => .uop (UWord.ofFields 0xD next.code (status.code.setWidth 8) result.code)
  | .init arg => .cmd (cmdWord 0 arg)
  | .getId arg => .cmd (cmdWord 1 arg)
  | .setRotation arg => .cmd (cmdWord 2 arg)
  | .setOrientation arg => .cmd (cmdWord 3 arg)
  | .getMotion arg => .cmd (cmdWord 4 arg)
  | .getMotionSlow arg => .cmd (cmdWord 5 arg)
  | .wFrame reg val => .frame (wFrameBytes (reg.setWidth 8) val)
  | .rFrame reg => .frame (rFrameBytes (reg.setWidth 8))
  | .bFrame => .frame (burstBytes 0x16)

/-! ## Words numbered as the opcode table numbers them -/

/-- The `n` bytes of the number `w`, most significant first: the order in which a frame's bits are sent (R61). -/
def bytesOfNat : Nat → Nat → List Byte
  | 0, _ => []
  | n + 1, w => BitVec.ofNat 8 (w / 256 ^ n) :: bytesOfNat n w

/-- The code whose bits are `w`, when the table gives its row `nbits` bits in whole bytes: 24 for a micro-op, 35 (five
bytes) for a command word, 16 or 104 for a wire frame. Log entry 13: DEDUCED, safe. -/
def tableCode (nbits w : Nat) : Option Code :=
  if nbits = 24 then (if w < 2 ^ 24 then some (.uop (BitVec.ofNat 24 w)) else none)
  else if 24 < nbits ∧ nbits ≤ 40 then (if w < 2 ^ 35 then some (.cmd (BitVec.ofNat 35 w)) else none)
  else if nbits = 16 then (if w < 2 ^ 16 then some (.frame (bytesOfNat 2 w)) else none)
  else if nbits = 104 then (if w < 2 ^ 104 then some (.frame (bytesOfNat 13 w)) else none)
  else none

/-- The instruction the decoder reads from a table word. -/
def decodeTableWord (nbits w : Nat) : Option Instr :=
  match tableCode nbits w with
  | some c => match decode c with
    | .ok i => some i
    | .error _ => none
  | none => none

end Sys2Proof
end

