-- ==== Sys2Proof/Machine/Trace.lean ====
section
/-! DEFINITION. The trace: the observation of the block (00_scope.md rule R8). -/

namespace Sys2Proof.Machine

/-- One event of the trace (R8). Statuses and command codes stand as the port's bits. -/
inductive Event where
  | cmd (op : BitVec 3) (arg : Word)
  | csl
  | byte (tx rx : Byte)
  | csh
  | rsp (status : BitVec 3) (data : Word)
  deriving DecidableEq, Repr

/-- An event with the `now_ms` value at which it happened (R8). -/
structure Stamped where
  ev : Event
  time : Word
  deriving DecidableEq, Repr

/-- The whole trace so far, oldest event first. -/
abbrev Trace := List Stamped

end Sys2Proof.Machine
end

