-- ==== Sys2Proof/Config.lean ====
section
/-! DEFINITION. What an implementation fixes (00_scope.md rule R5, the OPEN parameters) and the free values. Every
constant here is opaque and has no body: a statement about it holds for every value of it. -/

namespace Sys2Proof

/-- One `Write` entry of the calibration table (R120), the register as it stands in `WR`'s 8-bit field (R69). That it is a
`u7` (R5) is part of `Machine.CalTab.valid`, which the block's own table meets. -/
structure CalEntry where
  reg : Byte
  val : Byte
  deriving DecidableEq, Repr, Inhabited

/-- `CALTAB`: the six lists of the calibration table, in the positions R120 gives them. -/
structure CalTab where
  a : List CalEntry
  b : List CalEntry
  c : List CalEntry
  d1 : List CalEntry
  d2 : List CalEntry
  d3 : List CalEntry
  deriving DecidableEq, Repr, Inhabited

/-- `SPI_MODE` (R86): the four clock modes. -/
inductive SpiMode where
  | mode0
  | mode1
  | mode2
  | mode3
  deriving DecidableEq, Repr, Inhabited

/-- Six lists of entries, any at all. `Config.calTab` (Machine/Asm.lean), the `CALTAB` of this block, is this constant where
it meets R120. Log entry 8: DESIGN CHOICE, safe. -/
opaque Config.anyCalTab : CalTab

/-- `SPI_MODE` of this block: OPEN (R5, R86). Log entry 14: DESIGN CHOICE, safe. -/
opaque Config.spiMode : SpiMode

/-- `SCLK_DIV`: periods of `clk` in one `sclk` period, a positive integer, OPEN (R5, R86). Nothing of the model depends on
it. Log entry 14: DESIGN CHOICE, safe. -/
opaque Config.sclkDiv : PNat

/-- `T_CS_SETUP`: OPEN (R5, R86). Nothing of the model depends on it. Log entry 14: DESIGN CHOICE, safe. -/
opaque Config.tCsSetup : Nat

/-- `T_CS_HOLD`: OPEN (R5, R86). Nothing of the model depends on it. Log entry 14: DESIGN CHOICE, safe. -/
opaque Config.tCsHold : Nat

/-- `WAIT_SLACK`: the most a wait may overshoot, `none` for unbounded, OPEN (R5, R103). The machine does not read it; Safety.lean
does. Log entry 11: DESIGN CHOICE, safe. -/
opaque Config.waitSlack : Option Nat

/-- The oracle `Slave(h, tx)` (R7, R42): the byte the sensor chip returns for the byte `tx` after the trace `h`. A free
value. Log entry 6: DEDUCED, safe. -/
opaque Config.slave : Machine.Trace → Byte → Byte

/-- How far `now_ms` advances at the `n`-th free draw (R11, R80, R206). A free value: it may be 0 for ever, and R199's
fairness is the premise `Safety.Fair`. Log entry 5: DESIGN CHOICE, safe. Log entry 23: DEDUCED, safe. -/
opaque Config.tick : Nat → Word

end Sys2Proof
end

