-- ==== Sys2Proof/Machine/Params.lean ====
section
/-! DEFINITION. The fixed parameters of the block (00_scope.md rule R5, 20_memory.md rule R41) and the entry points of the
micro-ROM (42_sequencer_ops.md rules R100, R112). -/

namespace Sys2Proof.Machine

/-- `ID_EXPECT`: product id, revision (R5, R131). -/
def idExpect : Byte × Byte := (0x49, 0x00)

/-- `QUAL_THRESH` (R5, R152). -/
def qualThresh : Byte := 0x19

/-- `T_CS_PULSE`, milliseconds (R5). -/
def tCsPulse : BitVec 16 := 50
/-- `T_POR`, milliseconds (R5). -/
def tPor : BitVec 16 := 20
/-- `T_CAL1`, milliseconds (R5). -/
def tCal1 : BitVec 16 := 10
/-- `T_CAL2`, milliseconds (R5). -/
def tCal2 : BitVec 16 := 240
/-- `T_BURST_BACKOFF`, milliseconds (R5). -/
def tBurstBackoff : BitVec 16 := 10
/-- `T_POLL_BACKOFF`, milliseconds (R5). -/
def tPollBackoff : BitVec 16 := 1

/-- `REG_ID` (R5, R41). -/
def regId : Byte := 0x00
/-- `REG_DR` (R5, R41). -/
def regDr : Byte := 0x02
/-- `REG_BURST` (R5, R41). -/
def regBurst : Byte := 0x16
/-- `REG_POR` (R5, R41). -/
def regPor : Byte := 0x3A
/-- `REG_ORIENT` (R5, R41). -/
def regOrient : Byte := 0x5B

/-- `ENTRY` (R100, R112); the two reserved codes have no entry point and are never dispatched. -/
def entry (op : BitVec 3) : UAddr :=
  match op with
  | 0#3 => 0x001D
  | 1#3 => 0x0000
  | 2#3 => 0x0004
  | 3#3 => 0x0001
  | 4#3 => 0x0009
  | 5#3 => 0x0011
  | _ => 0x0000

/-- R86: the level at which `sclk` idles. -/
def idleLevel : SpiMode → Bool
  | .mode0 => false
  | .mode1 => false
  | .mode2 => true
  | .mode3 => true

/-- R86: the edge of `sclk` on which `miso` is sampled, rising (true) or falling. -/
def samplesOnRising : SpiMode → Bool
  | .mode0 => true
  | .mode1 => false
  | .mode2 => false
  | .mode3 => true

end Sys2Proof.Machine
end

