-- ==== Sys2Proof/Machine/Asm.lean ====
section
/-! DEFINITION. The assembler of 30_encoding.md rules R77, R78 and the reference microprogram of 42_sequencer_ops.md rule
R112 (43_calibration.md rule R121, 44_lifecycle.md rule R132, 45_orientation.md rules R143, R144, 46_motion_burst.md rule
R154, 47_motion_polled.md rule R162). -/

namespace Sys2Proof.Machine

/-! ## Pseudo-instructions (R78) -/

/-- `WR* T`. -/
def wrStar (table : List CalEntry) : List Instr := table.map fun e => .wr e.reg e.val

/-- `RD reg+0, d0`, `RD reg+1, d1`, ... -/
def rdFrom (reg : Byte) : List Dst → List Instr
  | [] => []
  | d :: ds => .rd reg d :: rdFrom (reg + 1) ds

/-- `RDN reg, n, dsts` (R78, R93), with the assembler's refusals when `reg` or `reg + n - 1` is above 0x7F (R77). With
`n = 0`, which no rule speaks of, it expands to no micro-op (log entry 22: DESIGN CHOICE, safe). -/
def rdn (reg : Nat) (dsts : List Dst) : Option (List Instr) :=
  if reg ≤ 0x7F ∧ reg + dsts.length ≤ 0x80 then some (rdFrom (BitVec.ofNat 8 reg) dsts) else none

/-- `PULSE ms`. -/
def pulse (ms : BitVec 16) : List Instr := [.cslo, .wait ms, .cshi]

/-! ## Assembling -/

/-- The 24-bit word of a micro-op (0 for the other kinds, which no microprogram holds). -/
def uword (i : Instr) : UWord :=
  match encode i with
  | .uop w => w
  | .cmd _ => 0
  | .frame _ => 0

/-- The instruction is a micro-op. -/
def isUop (i : Instr) : Bool :=
  match encode i with
  | .uop _ => true
  | .cmd _ => false
  | .frame _ => false

/-- The assembler: it refuses a register operand above 0x7F (R77) and anything that is no micro-op. -/
def assemble (program : List Instr) : Option (List UWord) :=
  if program.all fun i => i.wellFormed && isUop i then some (program.map uword) else none

/-! ## The reference layout (R112) -/

/-- R112: `P1 = 0x0027 + nA`. -/
def CalTab.p1 (t : CalTab) : Nat := 0x0027 + t.a.length
/-- R112: `P2 = P1 + 5 + nB`. -/
def CalTab.p2 (t : CalTab) : Nat := CalTab.p1 t + 5 + t.b.length
/-- R112: `P3 = P2 + 8 + nC`. -/
def CalTab.p3 (t : CalTab) : Nat := CalTab.p2 t + 8 + t.c.length
/-- R112: `P4 = P3 + nD1 + nD2 + nD3 + 2`. -/
def CalTab.p4 (t : CalTab) : Nat := CalTab.p3 t + t.d1.length + t.d2.length + t.d3.length + 2

/-- R120: the constraints a `CALTAB` must meet. -/
def CalTab.valid (t : CalTab) : Bool :=
  ((t.a ++ t.b ++ t.c ++ t.d1 ++ t.d2 ++ t.d3).all fun e => regOk e.reg)
    && !t.d3.isEmpty && decide (CalTab.p4 t + 5 ≤ 65536)

/-- The least table that meets R120. -/
def CalTab.least : CalTab where
  a := []
  b := []
  c := []
  d1 := []
  d2 := []
  d3 := [{ reg := 0, val := 0 }]

/-- A label's index as a branch target. -/
def label (n : Nat) : UAddr := BitVec.ofNat 16 n

/-- 0x0000: GET_ID (R135). -/
def progGetId : List Instr := [.endOp .ok .id .keep]

/-- 0x0001: SET_ORIENTATION (R143). -/
def progSetOrientation : List Instr := [.omflg, .wrr regOrient .om, .endOp .ok .none .keep]

/-- 0x0004: SET_ROTATION (R144). -/
def progSetRotation : List Instr :=
  [.bargbad 0x0008, .omrot, .wrr regOrient .om, .endOp .ok .none .keep, .endOp .invalidArg .none .keep]

/-- 0x0009: GET_MOTION (R154). -/
def progGetMotion : List Instr :=
  [.tstamp, .btmo 0x0010, .burst regBurst, .bqok 0x000F, .wait tBurstBackoff, .jmp 0x000A,
   .endOp .ok .burst .keep, .endOp .timeout .none .keep]

/-- 0x0011: GET_MOTION_SLOW (R162). -/
def progGetMotionSlow : List Instr :=
  [.tstamp, .btmo 0x001C] ++ rdFrom regDr [.pb 0, .pb 1, .pb 2, .pb 3, .pb 4]
    ++ [.bdrdy 0x001B, .wait tPollBackoff, .jmp 0x0012, .endOp .ok .polled .keep, .endOp .timeout .none .keep]

/-- 0x001D to 0x0026: INIT up to the calibration (R132). -/
def progInitHead : List Instr :=
  pulse tCsPulse ++ [.wr regPor 0x5A, .wait tPor]
    ++ rdFrom regDr [.discard, .discard, .discard, .discard, .discard]

/-- The five micro-ops of calibration branch 1 (R122), at `P1`. -/
def progBranch1 (t : CalTab) : List Instr :=
  [.rd 0x67 .discard, .bb7 (label (CalTab.p1 t + 4)), .wr 0x48 0x02, .jmp (label (CalTab.p1 t + 5)), .wr 0x48 0x04]

/-- Calibration branch 2 (R123), at `P2`. -/
def progBranch2 (t : CalTab) : List Instr :=
  [.rd 0x73 .discard, .bnz (label (CalTab.p3 t)), .rd 0x70 .c1, .rd 0x71 .c2, .xf1, .xf2]
    ++ wrStar t.c ++ [.wrr 0x70 .c1, .wrr 0x71 .c2]

/-- The tail of the calibration (R124), at `P3`. -/
def progTail (t : CalTab) : List Instr :=
  wrStar t.d1 ++ [.wait tCal1] ++ wrStar t.d2 ++ [.wait tCal2] ++ wrStar t.d3

/-- The calibration microprogram (R121), 0x0027 to `P4 - 1`. -/
def progCalibration (t : CalTab) : List Instr :=
  wrStar t.a ++ progBranch1 t ++ wrStar t.b ++ progBranch2 t ++ progTail t

/-- INIT's identity check (R132), at `P4`. -/
def progIdentity (t : CalTab) : List Instr :=
  rdFrom regId [.pidr, .revr]
    ++ [.bidbad (label (CalTab.p4 t + 4)), .endOp .ok .none .ready, .endOp .initError .none .failed]

/-- Indices 0x0000 to 0x0026, which do not depend on `CALTAB` (R112). -/
def progFixed : List Instr :=
  progGetId ++ progSetOrientation ++ progSetRotation ++ progGetMotion ++ progGetMotionSlow ++ progInitHead

/-- The six microprograms back to back (R112). -/
def refProgram (t : CalTab) : List Instr := progFixed ++ (progCalibration t ++ progIdentity t)

/-- The words of the reference micro-ROM, index 0 first (R112). Nothing is checked here: a ROM built from a bad `CALTAB`
holds the illegal words R111 guards against. Log entry 20: DEDUCED, safe. -/
def refWords (t : CalTab) : List UWord := (refProgram t).map uword

end Sys2Proof.Machine

namespace Sys2Proof

/-- `CALTAB` of this block: OPEN, any table that meets R120 (R5). The free constant `Config.anyCalTab` where it meets R120;
a table stands in where it does not, so that nothing but a legal `CALTAB` is a value of it. Log entry 8: DESIGN CHOICE, safe. -/
def Config.calTab : CalTab :=
  if Machine.CalTab.valid Config.anyCalTab then Config.anyCalTab else Machine.CalTab.least

end Sys2Proof
end

