-- ==== Sys2Proof/Machine/Rom.lean ====
section
/-! DEFINITION. The micro-ROM (20_memory.md rules R40, R43): the one memory the block reads by an index. A list of
(index, word) pairs in one canonical form, indices strictly rising; an index not listed holds no word. The block never
writes it; `Rom.write` is the loader's (log entry 8: DESIGN CHOICE, safe). -/

namespace Sys2Proof.Machine

/-- The micro-ROM as plain data. -/
abbrev Rom := List (Nat × UWord)

/-- Every index of the rest lies above `n`. -/
def Rom.above (n : Nat) : Rom → Bool
  | [] => true
  | (k, _) :: _ => decide (n < k)

/-- The canonical form: indices strictly rising. -/
def Rom.wf : Rom → Bool
  | [] => true
  | (k, _) :: rest => Rom.above k rest && Rom.wf rest

/-- The word at an index, if there is one. -/
def Rom.read : Rom → Nat → Option UWord
  | [], _ => none
  | (k, w) :: rest, n => if n = k then some w else Rom.read rest n

/-- The ROM with the word `w` at the index `n`, in canonical form. -/
def Rom.write : Rom → Nat → UWord → Rom
  | [], n, w => [(n, w)]
  | (k, v) :: rest, n, w =>
    if n < k then (n, w) :: (k, v) :: rest
    else if n = k then (n, w) :: rest
    else (k, v) :: Rom.write rest n w

/-- The words `ws` at the indices `n`, `n + 1`, ... -/
def Rom.ofWordsFrom (n : Nat) : List UWord → Rom
  | [] => []
  | w :: ws => (n, w) :: Rom.ofWordsFrom (n + 1) ws

/-- The reference micro-ROM instantiated with a calibration table (R43, R112). -/
def Rom.reference (t : CalTab) : Rom := Rom.ofWordsFrom 0 (refWords t)

end Sys2Proof.Machine
end

