-- ==== Sys2Proof/Machine/State.lean ====
section
/-! DEFINITION. The architectural state of URC-SPIM (10_state.md), plain data, and its value after reset (R29, R190). -/

namespace Sys2Proof.Machine

/-- Why the machine stops. -/
inductive Fault where
  /-- Raised by the fetch when `UPC` names an index that holds no ROM word (R112: such words "are never fetched").
  Safe: the machine stops where the spec says nothing. Log entry 9: DESIGN CHOICE, safe. -/
  | romHole
  deriving DecidableEq, Repr

/-- Why a step has no meaning. -/
inductive Refusal where
  /-- Raised by `exec` for an instruction without a meaning. Safe. No arm of this model raises it. -/
  | notModelled (mnemonic : String)
  /-- Raised by the step when the bytes handed directly to the bus transport are none of the frames of R60 (R77: what
  the sensor chip does with any other frame is not in the source). Safe. Log entry 17: DESIGN CHOICE, safe. -/
  | notAFrame
  deriving DecidableEq, Repr

/-- `STATE`, the lifecycle state (R13). -/
inductive Life where
  | uninit
  | ready
  | failed
  deriving DecidableEq, Repr

/-- The two bits of `STATE` (R13); the value 3 is never taken. -/
def Life.code : Life → BitVec 2
  | .uninit => 0
  | .ready => 1
  | .failed => 2

/-- A working register of unspecified reset value (R29): its value, and whether anything has written it since reset.
Log entry 2: DESIGN CHOICE, unsafe. -/
structure Cell (α : Type) where
  val : α
  written : Bool
  deriving DecidableEq, Repr

/-- The working registers and the two frame buffers (R17 to R24). -/
structure Regs where
  /-- `RB`, the readback register (R17). -/
  rb : Cell Byte
  /-- `C1` (R18). -/
  c1 : Cell Byte
  /-- `C2` (R18). -/
  c2 : Cell Byte
  /-- `PIDR` (R19). -/
  pidr : Cell Byte
  /-- `REVR` (R19). -/
  revr : Cell Byte
  /-- `OM` (R21). -/
  om : Cell Byte
  /-- `ARG` (R20). -/
  arg : Cell Word
  /-- `T0` (R22). -/
  t0 : Cell Word
  /-- `TSTART` (R22). -/
  tstart : Cell Word
  /-- `FB[0..12]`, written all thirteen together (R23). -/
  fb : Cell (Vector Byte 13)
  /-- `PB[0..4]`, written one at a time (R24). -/
  pb : Vector (Cell Byte) 5
  deriving DecidableEq, Repr

/-- The serial lines (R10) and the transport's shift registers and bit counter (R27). -/
structure Bus where
  sclk : Bool
  mosi : Bool
  /-- The level of `miso` last sampled. -/
  miso : Bool
  txShift : Byte
  rxShift : Byte
  /-- Bits of the current byte still to be exchanged. -/
  bitCount : Nat
  deriving DecidableEq, Repr

/-- What the host does at a step (R206, R207). Log entry 7: DESIGN CHOICE, unsafe. -/
inductive HostInput where
  /-- No command is presented during one step. -/
  | idle
  /-- The command is presented, and held until it is accepted (R12). -/
  | cmd (op : BitVec 3) (arg : Word)
  /-- `rst_n` is low; it falls between two micro-ops (R190, R192). -/
  | reset
  /-- `rst_n` is low; if a transfer was about to run, it falls inside it, after `bytes` whole bytes (R192). -/
  | resetDuring (bytes : Nat)
  deriving DecidableEq, Repr

/-- The environment: the clock, the sensor chip's answers and the host's inputs (R206). -/
structure Env where
  /-- Port `now_ms` (R11). -/
  now : Word
  /-- The clock's advances to come, the next one first. Log entry 5: DESIGN CHOICE, safe. -/
  ticks : List Word
  /-- How many advances have been drawn freely, the list above being empty. Log entry 5: DESIGN CHOICE, safe. -/
  draws : Nat
  /-- The sensor chip's answers to come, the next one first. Log entry 6: DEDUCED, safe. -/
  chip : List Byte
  /-- The host's inputs to come, the next one first. Log entry 7: DESIGN CHOICE, unsafe. -/
  host : List HostInput
  deriving DecidableEq, Repr

/-- The state of the machine. -/
structure State where
  /-- `STATE` (R13). -/
  life : Life
  /-- `UPC` (R14). -/
  upc : UAddr
  /-- `BUSY` (R15). -/
  busy : Bool
  /-- `CS_N` and port `cs_n`: false is asserted (R16). -/
  csN : Bool
  /-- `RSP_STATUS` (R25). -/
  rspStatus : BitVec 3
  /-- `RSP_DATA` (R25). -/
  rspData : Word
  /-- Port `rsp_valid` (R10, R12). -/
  rspValid : Bool
  /-- The working registers and frame buffers (R17 to R24). -/
  regs : Regs
  /-- A `WAIT` has captured `T0` and is holding (R103). The model's own; log entry 11: DESIGN CHOICE, safe. -/
  held : Bool
  /-- The run is marked gone wrong: a register was read before its first write (R29). The model's own; log entry 2: DESIGN CHOICE, unsafe. -/
  undefRead : Bool
  /-- The serial lines and shift registers (R10, R27). -/
  bus : Bus
  /-- The inputs (R206). -/
  env : Env
  /-- The micro-ROM (R43). -/
  rom : Rom
  /-- A wire frame handed directly to the bus transport. The model's own; log entry 12: DESIGN CHOICE, unsafe. -/
  frame : Option (List Byte)
  /-- The trace so far (R8). -/
  trace : Trace
  deriving DecidableEq, Repr

/-- A register nothing has written: value 0, marked unwritten (log entry 2: DESIGN CHOICE, unsafe). -/
def Cell.reset {w : Nat} : Cell (BitVec w) := { val := 0, written := false }

/-- The working registers after reset: all unspecified (R29). -/
def Regs.reset : Regs where
  rb := Cell.reset
  c1 := Cell.reset
  c2 := Cell.reset
  pidr := Cell.reset
  revr := Cell.reset
  om := Cell.reset
  arg := Cell.reset
  t0 := Cell.reset
  tstart := Cell.reset
  fb := { val := #v[0, 0, 0, 0, 0, 0, 0, 0, 0, 0, 0, 0, 0], written := false }
  pb := #v[Cell.reset, Cell.reset, Cell.reset, Cell.reset, Cell.reset]

/-- The lines after reset: `sclk` at its idle level (R29), the rest by log entry 3: DESIGN CHOICE, unsafe. -/
def Bus.reset : Bus where
  sclk := idleLevel Config.spiMode
  mosi := false
  miso := false
  txShift := 0
  rxShift := 0
  bitCount := 0

/-- The environment before anything has happened (log entries 4 to 7). -/
def Env.reset : Env where
  now := 0
  ticks := []
  draws := 0
  chip := []
  host := []

/-- The machine right after power-on reset, its ROM built from the calibration table `t` (R29, R112, R190). -/
def State.resetWith (t : CalTab) : State where
  life := .uninit
  upc := 0
  busy := false
  csN := true
  rspStatus := 0
  rspData := 0
  rspValid := false
  regs := Regs.reset
  held := false
  undefRead := false
  bus := Bus.reset
  env := Env.reset
  rom := Rom.reference t
  frame := none
  trace := []

/-- The machine right after reset, with the block's own `CALTAB` (R29, R190, R191). -/
def State.reset : State := State.resetWith Config.calTab

end Sys2Proof.Machine
end

