-- ==== Sys2Proof/Machine/Serial.lean ====
section
/-! DEFINITION. Below the byte level (40_bus_transport.md rule R86): a byte is exchanged by eight `sclk` pulses, most
significant bit first, through the shift registers of R27. No rule outside R86 depends on it; log entry 14: DESIGN CHOICE, safe. -/

namespace Sys2Proof.Machine

/-- `miso` is sampled into the receive shift register, most significant bit first. -/
def Bus.sample (b : Bus) (level : Bool) : Bus :=
  { b with miso := level, rxShift := b.rxShift.shiftConcat level }

/-- One edge of `sclk`, rising when `high` is true: `miso`, at `level`, is sampled if this is the mode's sampling edge. -/
def Bus.edge (mode : SpiMode) (high level : Bool) (b : Bus) : Bus :=
  let moved := { b with sclk := high }
  if high = samplesOnRising mode then moved.sample level else moved

/-- One `sclk` pulse: `mosi` carries the top bit of the transmit shift register, and `sclk` leaves its idle level and
returns to it. -/
def Bus.pulse (mode : SpiMode) (b : Bus) (level : Bool) : Bus :=
  let driven := { b with mosi := b.txShift.msb }
  let clocked := (driven.edge mode (!idleLevel mode) level).edge mode (idleLevel mode) level
  { clocked with txShift := clocked.txShift <<< 1, bitCount := clocked.bitCount - 1 }

/-- The pulses of a byte, one per `miso` level. -/
def Bus.pulses (mode : SpiMode) (b : Bus) : List Bool → Bus
  | [] => b
  | level :: rest => Bus.pulses mode (b.pulse mode level) rest

/-- The bits of a byte in the order in which they stand on the wire: bit 7 first (R47). -/
def wireBits (v : Byte) : List Bool :=
  [v.getLsbD 7, v.getLsbD 6, v.getLsbD 5, v.getLsbD 4, v.getLsbD 3, v.getLsbD 2, v.getLsbD 1, v.getLsbD 0]

/-- One `BYTE(tx, rx)`: the byte is loaded and shifted out while the chip's answer is shifted in. -/
def Bus.exchange (mode : SpiMode) (b : Bus) (tx answer : Byte) : Bus :=
  Bus.pulses mode { b with txShift := tx, bitCount := 8 } (wireBits answer)

end Sys2Proof.Machine
end

