-- ==== Sys2Proof/Machine/Ops.lean ====
section
/-! DEFINITION. The named operations over the state: register updates, the trace, the clock, the transfer primitive `Xfer`
(R80), the response (R12), command dispatch (R100), the fault entry `UFAULT` (R111) and hardware reset (R190, R192). -/

namespace Sys2Proof.Machine

/-- What one instruction's meaning answers. -/
abbrev Result := Host.Outcome State Fault Refusal

/-! ## Updates -/

/-- A register written with `v`. -/
def Cell.of {α : Type} (v : α) : Cell α := { val := v, written := true }

def State.setLife (s : State) (l : Life) : State := { s with life := l }
def State.setUpc (s : State) (a : UAddr) : State := { s with upc := a }
def State.setBusy (s : State) (b : Bool) : State := { s with busy := b }
def State.setCsN (s : State) (level : Bool) : State := { s with csN := level }
def State.setRegs (s : State) (r : Regs) : State := { s with regs := r }
def State.setHeld (s : State) (b : Bool) : State := { s with held := b }
def State.setBus (s : State) (b : Bus) : State := { s with bus := b }
def State.setEnv (s : State) (e : Env) : State := { s with env := e }

def Regs.setRb (r : Regs) (v : Byte) : Regs := { r with rb := Cell.of v }
def Regs.setC1 (r : Regs) (v : Byte) : Regs := { r with c1 := Cell.of v }
def Regs.setC2 (r : Regs) (v : Byte) : Regs := { r with c2 := Cell.of v }
def Regs.setPidr (r : Regs) (v : Byte) : Regs := { r with pidr := Cell.of v }
def Regs.setRevr (r : Regs) (v : Byte) : Regs := { r with revr := Cell.of v }
def Regs.setOm (r : Regs) (v : Byte) : Regs := { r with om := Cell.of v }
def Regs.setArg (r : Regs) (v : Word) : Regs := { r with arg := Cell.of v }
def Regs.setT0 (r : Regs) (v : Word) : Regs := { r with t0 := Cell.of v }
def Regs.setTstart (r : Regs) (v : Word) : Regs := { r with tstart := Cell.of v }
def Regs.setFb (r : Regs) (v : Vector Byte 13) : Regs := { r with fb := Cell.of v }
def Regs.setPb (r : Regs) (k : Fin 5) (v : Byte) : Regs := { r with pb := r.pb.set k.val (Cell.of v) k.isLt }

/-- `UPC <- (UPC + 1) mod 2^16` (R101). -/
def State.advance (s : State) : State := s.setUpc (s.upc + 1)

/-- The machine reads a register whose mark is `written`: a read before the first write marks the run gone wrong and the
machine goes on (R29, U2; log entry 2: DESIGN CHOICE, unsafe). -/
def State.noteRead (s : State) (written : Bool) : State := { s with undefRead := s.undefRead || !written }

/-- `trace += ev`, stamped with `now_ms` (R8). -/
def State.emit (s : State) (ev : Event) : State := { s with trace := s.trace ++ [{ ev := ev, time := s.env.now }] }

/-! ## The environment -/

/-- One draw of the clock (R11, R206): the next advance given, or a free one. Log entry 5: DESIGN CHOICE, safe. -/
def Env.tick (e : Env) : Env :=
  match e.ticks with
  | d :: rest => { e with now := e.now + d, ticks := rest }
  | [] => { e with now := e.now + Config.tick e.draws, draws := e.draws + 1 }

def State.tick (s : State) : State := s.setEnv s.env.tick

/-- The sensor chip's answer to `tx` after the trace so far (R42): the next answer given, or a free one. Log entry 6: DEDUCED, safe. -/
def State.answer (s : State) (tx : Byte) : Byte :=
  match s.env.chip with
  | rx :: _ => rx
  | [] => Config.slave s.trace tx

/-- One answer has been taken. -/
def Env.dropAnswer (e : Env) : Env := { e with chip := e.chip.tail }

/-! ## Transfers (R80) -/

/-- One `BYTE(tx, rx)` of a transfer. -/
def exchange (s : State) (tx : Byte) : Byte × State :=
  let t := s.tick
  let rx := t.answer tx
  (rx, ((t.setEnv t.env.dropAnswer).setBus (t.bus.exchange Config.spiMode tx rx)).emit (.byte tx rx))

/-- The bytes of a transfer, in order. -/
def exchangeAll (s : State) : List Byte → List Byte × State
  | [] => ([], s)
  | tx :: rest =>
    let (rx, t) := exchange s tx
    let (rxs, u) := exchangeAll t rest
    (rx :: rxs, u)

/-- Chip-select driven low: `CS_N <- 0 ; trace += CSL`. -/
def State.selectChip (s : State) : State := (s.setCsN false).emit .csl

/-- Chip-select driven high: `CS_N <- 1 ; trace += CSH`. -/
def State.releaseChip (s : State) : State := (s.setCsN true).emit .csh

/-- `Xfer(tx)` with chip-select high at its start: the received bytes and the state after `CSH`. -/
def xfer (s : State) (tx : List Byte) : List Byte × State :=
  let (rx, t) := exchangeAll s.selectChip tx
  (rx, t.tick.releaseChip)

/-! ## Responses and faults -/

/-- `Respond(status, data)` (R12). The command is over, so no wait is in progress (R208). Log entry 18: DEDUCED, safe. -/
def State.respond (s : State) (status : Status) (data : Word) : State :=
  { s with
    rspStatus := status.code, rspData := data, rspValid := true, busy := false, held := false,
    trace := s.trace ++ [{ ev := .rsp status.code data, time := s.env.now }] }

/-- `UFAULT` (R111): chip-select goes high if it was low, `STATE <- FAILED`, `Respond(UFAULT, 0)`, nothing else. Log entry 10: DEDUCED, unsafe. -/
def uFault (s : State) : State :=
  let t := if s.csN then s else s.releaseChip
  (t.setLife .failed).respond .ufault 0

/-- A micro-op's transfer: `UFAULT` if chip-select is low at its start (R81), else `keep` of the bytes received. -/
def transfer (s : State) (tx : List Byte) (keep : List Byte → State → State) : State :=
  if s.csN then keep (xfer s tx).1 (xfer s tx).2 else uFault s

/-! ## Dispatch (R100) -/

/-- `Dispatch(op, arg)`. A command presented while `BUSY = 1` is not accepted and has no effect (R12). Log entry 19: DEDUCED, safe. -/
def dispatch (op : BitVec 3) (arg : Word) (s : State) : State :=
  if s.busy then s
  else
    let t := s.emit (.cmd op arg)
    if op = 6 ∨ op = 7 then t.respond .badCmd 0
    else if op = 0 ∧ t.life ≠ .uninit then t.respond .badState 0
    else if op ≠ 0 ∧ t.life ≠ .ready then t.respond .badState 0
    else ((t.setRegs (t.regs.setArg arg)).setBusy true).setUpc (entry op)

/-! ## Branches (R109) -/

/-- `if cond then UPC <- target else UPC <- UPC + 1`. -/
def branch (cond : Bool) (target : UAddr) (s : State) : State :=
  if cond then s.setUpc target else s.advance

/-! ## Reset -/

/-- Hardware reset (R190, R192): all state takes its reset value, chip-select rises if it was low, no response is produced.
The inputs, the ROM, the trace and the mark on the run are not the block's registers and stay. Log entry 21: DESIGN CHOICE, safe. -/
def hardReset (s : State) : State :=
  let t := if s.csN then s else s.releaseChip
  { t with
    life := .uninit, upc := 0, busy := false, csN := true, rspStatus := 0, rspData := 0, rspValid := false,
    regs := Regs.reset, held := false, bus := Bus.reset, frame := none }

/-- A transfer cut short by reset after `n` whole bytes: `CSL`, those bytes, and the time until the reset, which falls
anywhere in the next part of the transfer (R80); the reset's `CSH` follows (R192). Log entry 16: DEDUCED, safe. -/
def cutTransfer (s : State) (tx : List Byte) (n : Nat) : State :=
  (exchangeAll s.selectChip (tx.take n)).2.tick

end Sys2Proof.Machine
end

