-- ==== Sys2Proof/Machine/Operands.lean ====
section
/-! DEFINITION. Operand forms: `RD` destinations and `WRR` sources (R70), the burst buffer, `END`'s result data (R67, R72)
and next state (R72), the frame parsers (R153, R161), the orientation masks (R140, R141) and the numeric transforms (R107,
R108). -/

namespace Sys2Proof.Machine

/-! ## Register selectors -/

/-- The register a `RD` destination names takes the byte; `-` names none (R70, R92). -/
def Regs.writeDst (r : Regs) (dst : Dst) (v : Byte) : Regs :=
  match dst with
  | .discard => r
  | .c1 => r.setC1 v
  | .c2 => r.setC2 v
  | .pidr => r.setPidr v
  | .revr => r.setRevr v
  | .pb k => r.setPb k v

/-- The register a `WRR` source names (R70, R91). -/
def Regs.readSrc (r : Regs) (src : Src) : Cell Byte :=
  match src with
  | .c1 => r.c1
  | .c2 => r.c2
  | .om => r.om

/-- `RD`'s effect on the registers: `RB` and the destination take the second byte received; the echo byte is discarded
(R92). -/
def Regs.afterRead (r : Regs) (dst : Dst) (rx : List Byte) : Regs :=
  (r.setRb (rx.getD 1 0)).writeDst dst (rx.getD 1 0)

/-- `FB[k] <- rx[k]` for `k` in 0..13 (R95). -/
def burstFrame (rx : List Byte) : Vector Byte 13 :=
  #v[rx.getD 0 0, rx.getD 1 0, rx.getD 2 0, rx.getD 3 0, rx.getD 4 0, rx.getD 5 0, rx.getD 6 0, rx.getD 7 0,
     rx.getD 8 0, rx.getD 9 0, rx.getD 10 0, rx.getD 11 0, rx.getD 12 0]

/-! ## Frame parsers -/

/-- `i16(v)`: the two's-complement reading of a 16-bit pattern (R6). -/
def i16 (v : BitVec 16) : Int := if v.toNat < 32768 then v.toNat else v.toNat - 65536

/-- The fields of a burst frame (R74, R153). The shutter bytes are never combined (R48). -/
structure BurstFields where
  echo : Byte
  dataReady : Byte
  observation : Byte
  dx : Int
  dy : Int
  quality : Byte
  rawSum : Byte
  rawMax : Byte
  rawMin : Byte
  shutterUpper : Byte
  shutterLower : Byte
  deriving DecidableEq, Repr

/-- The burst frame parser (R153). -/
def parseBurst (fb : Vector Byte 13) : BurstFields where
  echo := fb[0]
  dataReady := fb[1]
  observation := fb[2]
  dx := i16 (fb[4] ++ fb[3])
  dy := i16 (fb[6] ++ fb[5])
  quality := fb[7]
  rawSum := fb[8]
  rawMax := fb[9]
  rawMin := fb[10]
  shutterUpper := fb[11]
  shutterLower := fb[12]

/-- The fields of a polled frame (R75, R161). -/
structure PolledFields where
  dataReady : Byte
  dx : Int
  dy : Int
  deriving DecidableEq, Repr

/-- The polled frame parser (R161). -/
def parsePolled (pb : Vector (Cell Byte) 5) : PolledFields where
  dataReady := (pb[0]).val
  dx := i16 ((pb[2]).val ++ (pb[1]).val)
  dy := i16 ((pb[4]).val ++ (pb[3]).val)

/-! ## `END` -/

/-- `ResultData(result)` (R67). -/
def Regs.resultData (r : Regs) (sel : ResultSel) : Word :=
  match sel with
  | .none => 0
  | .id => (0 : BitVec 16) ++ r.revr.val ++ r.pidr.val
  | .burst => r.fb.val[6] ++ r.fb.val[5] ++ r.fb.val[4] ++ r.fb.val[3]
  | .polled => (r.pb[4]).val ++ (r.pb[3]).val ++ (r.pb[2]).val ++ (r.pb[1]).val

/-- The written-mark of what `ResultData` reads (R29). -/
def Regs.resultWritten (r : Regs) (sel : ResultSel) : Bool :=
  match sel with
  | .none => true
  | .id => r.revr.written && r.pidr.written
  | .burst => r.fb.written
  | .polled => (r.pb[4]).written && (r.pb[3]).written && (r.pb[2]).written && (r.pb[1]).written

/-- `STATE` after `END` (R72, R110). -/
def NextSel.apply (next : NextSel) (l : Life) : Life :=
  match next with
  | .keep => l
  | .ready => .ready
  | .failed => .failed

/-! ## Orientation masks -/

/-- `{ARG[2], ARG[1], ARG[0], 0b00000}` (R76, R140). -/
def flagMask (arg : Word) : Byte := arg.extractLsb' 0 3 ++ (0 : BitVec 5)

/-- The rotation table (R141); no mask outside it. -/
def rotationMask (arg : Word) : Option Byte :=
  if arg = 0 then some 0xE0
  else if arg = 90 then some 0x40
  else if arg = 180 then some 0x80
  else if arg = 270 then some 0x20
  else none

/-! ## Numeric transforms -/

/-- The first line of `XF1` (R107). -/
def xf1Add14 (c : Nat) : Nat := if c ≤ 28 then c + 14 else c

/-- The second line of `XF1`: it tests the value after the first line (R107, 90_conflicts C1). -/
def xf1Add11 (c : Nat) : Nat := if 28 < c then c + 11 else c

/-- The `c1` transform on unbounded integers, clamped to 0..0x3F (R107). -/
def xf1 (c : Byte) : Byte := BitVec.ofNat 8 (max 0 (min 0x3F (xf1Add11 (xf1Add14 c.toNat))))

/-- The `c2` transform: unbounded product, truncating division (R108). -/
def xf2 (c : Byte) : Byte := BitVec.ofNat 8 (c.toNat * 45 / 100)

end Sys2Proof.Machine
end

