-- ==== Sys2Proof/Machine/Bus.lean ====
section
/-! DEFINITION. The chip-select micro-ops (40_bus_transport.md rules R84, R85) and the wire frames on their own
(30_encoding.md rules R61 to R63; log entry 12: DESIGN CHOICE, unsafe). -/

namespace Sys2Proof.Machine

/-- `CSLO` (R84). -/
def execCslo (s : State) : Result :=
  .next (if s.csN then s.selectChip.advance else uFault s)

/-- `CSHI` (R85). -/
def execCshi (s : State) : Result :=
  .next (if s.csN then uFault s else s.releaseChip.advance)

/-- The W frame (R61): one `Xfer`, both received bytes discarded. A frame is no micro-op: `UPC` stays. -/
def execWFrame (reg : BitVec 7) (val : Byte) (s : State) : Result :=
  .next (transfer s (wFrameBytes (reg.setWidth 8) val) fun _ t => t)

/-- The R frame (R62): one `Xfer`, the second received byte kept in `RB` (R17). -/
def execRFrame (reg : BitVec 7) (s : State) : Result :=
  .next (transfer s (rFrameBytes (reg.setWidth 8)) fun rx t => t.setRegs (t.regs.setRb (rx.getD 1 0)))

/-- The B frame (R63): one `Xfer`, all thirteen received bytes kept in `FB` (R23, R60). -/
def execBFrame (s : State) : Result :=
  .next (transfer s (burstBytes regBurst) fun rx t => t.setRegs (t.regs.setFb (burstFrame rx)))

end Sys2Proof.Machine
end

