-- ==== Sys2Proof/Machine/Flags.lean ====
section
/-! DEFINITION. The condition predicates of 10_state.md rule R26, each beside the written-mark of the registers it reads.
The block stores no condition flag. -/

namespace Sys2Proof.Machine

/-- `RB7`: `RB[7] = 1`. -/
def State.rb7 (s : State) : Bool := s.regs.rb.val.getLsbD 7

/-- `RBNZ`: `RB != 0x00`. -/
def State.rbnz (s : State) : Bool := decide (s.regs.rb.val ≠ 0)

/-- `QOK`: `FB[7] > 0x19`, unsigned. -/
def State.qok (s : State) : Bool := decide (qualThresh.toNat < (s.regs.fb.val[7]).toNat)

/-- `DRDY`: `PB[0][7] = 1`. -/
def State.drdy (s : State) : Bool := (s.regs.pb[0]).val.getLsbD 7

/-- Elapsed time from a stamp: `(Now() - t) mod 2^32` (R11). -/
def State.elapsed (s : State) (stamp : Word) : Word := s.env.now - stamp

/-- `TMO`: `(Now() - TSTART) mod 2^32 >= ARG`, unsigned. -/
def State.tmo (s : State) : Bool := decide (s.regs.arg.val.toNat ≤ (s.elapsed s.regs.tstart.val).toNat)

/-- `IDBAD`: `(PIDR, REVR) != (0x49, 0x00)`. -/
def State.idbad (s : State) : Bool := decide ((s.regs.pidr.val, s.regs.revr.val) ≠ idExpect)

/-- `ARGBAD`: `ARG` is none of 0, 90, 180, 270. -/
def State.argbad (s : State) : Bool :=
  decide (s.regs.arg.val ≠ 0 ∧ s.regs.arg.val ≠ 90 ∧ s.regs.arg.val ≠ 180 ∧ s.regs.arg.val ≠ 270)

/-! ## Written-marks of what the predicates read (R29) -/

def State.tmoWritten (s : State) : Bool := s.regs.tstart.written && s.regs.arg.written
def State.idWritten (s : State) : Bool := s.regs.pidr.written && s.regs.revr.written

end Sys2Proof.Machine
end

