-- ==== Sys2Proof/Machine/Lifecycle.lean ====
section
/-! DEFINITION. Device lifecycle (44_lifecycle.md): the identity check and the host commands INIT and GET_ID. A host
command's meaning is its dispatch (R100); the microprogram it starts runs by the micro-ops' meanings. -/

namespace Sys2Proof.Machine

/-- `BIDBAD target` (R131). -/
def execBidbad (target : UAddr) (s : State) : Result := .next (branch s.idbad target (s.noteRead s.idWritten))

/-- INIT (R130), `cmd_op = 0`. -/
def execInit (arg : Word) (s : State) : Result := .next (dispatch 0 arg s)

/-- GET_ID (R135), `cmd_op = 1`. -/
def execGetId (arg : Word) (s : State) : Result := .next (dispatch 1 arg s)

end Sys2Proof.Machine
end

