-- ==== Sys2Proof/Machine/Motion.lean ====
section
/-! DEFINITION. Motion acquisition, burst and polled (46_motion_burst.md, 47_motion_polled.md). -/

namespace Sys2Proof.Machine

/-- `TSTAMP` (R150). -/
def execTstamp (s : State) : Result := .next ((s.setRegs (s.regs.setTstart s.env.now)).advance)

/-- `BTMO target` (R151). -/
def execBtmo (target : UAddr) (s : State) : Result := .next (branch s.tmo target (s.noteRead s.tmoWritten))

/-- `BQOK target` (R152). -/
def execBqok (target : UAddr) (s : State) : Result := .next (branch s.qok target (s.noteRead s.regs.fb.written))

/-- `BDRDY target` (R160). -/
def execBdrdy (target : UAddr) (s : State) : Result := .next (branch s.drdy target (s.noteRead (s.regs.pb[0]).written))

/-- GET_MOTION (R154), `cmd_op = 4`. -/
def execGetMotion (arg : Word) (s : State) : Result := .next (dispatch 4 arg s)

/-- GET_MOTION_SLOW (R162), `cmd_op = 5`. -/
def execGetMotionSlow (arg : Word) (s : State) : Result := .next (dispatch 5 arg s)

end Sys2Proof.Machine
end

