-- ==== Sys2Proof/Machine/Orientation.lean ====
section
/-! DEFINITION. Orientation configuration (45_orientation.md). -/

namespace Sys2Proof.Machine

/-- `OMFLG` (R140). -/
def execOmflg (s : State) : Result :=
  .next (((s.noteRead s.regs.arg.written).setRegs (s.regs.setOm (flagMask s.regs.arg.val))).advance)

/-- `OMROT` (R141): `UFAULT` outside the table. -/
def execOmrot (s : State) : Result :=
  .next (match rotationMask s.regs.arg.val with
    | some mask => ((s.noteRead s.regs.arg.written).setRegs (s.regs.setOm mask)).advance
    | none => uFault (s.noteRead s.regs.arg.written))

/-- `BARGBAD target` (R142). -/
def execBargbad (target : UAddr) (s : State) : Result := .next (branch s.argbad target (s.noteRead s.regs.arg.written))

/-- SET_ROTATION (R144), `cmd_op = 2`. -/
def execSetRotation (arg : Word) (s : State) : Result := .next (dispatch 2 arg s)

/-- SET_ORIENTATION (R143), `cmd_op = 3`. -/
def execSetOrientation (arg : Word) (s : State) : Result := .next (dispatch 3 arg s)

end Sys2Proof.Machine
end

