-- ==== Sys2Proof/Machine/RegAccess.lean ====
section
/-! DEFINITION. The register access micro-ops (41_register_access.md). Each raises `UFAULT` on a register operand with bit 7
set (R77) and, through `transfer`, when chip-select is low (R81). -/

namespace Sys2Proof.Machine

/-- `WR reg, val` (R90). -/
def execWr (reg val : Byte) (s : State) : Result :=
  .next (if regOk reg then transfer s (wFrameBytes reg val) fun _ t => t.advance else uFault s)

/-- `WRR reg, src` (R91). -/
def execWrr (reg : Byte) (src : Src) (s : State) : Result :=
  .next (if regOk reg && s.csN then
      transfer (s.noteRead (s.regs.readSrc src).written) (wFrameBytes reg (s.regs.readSrc src).val) fun _ t => t.advance
    else uFault s)

/-- `RD reg, dst` (R92). -/
def execRd (reg : Byte) (dst : Dst) (s : State) : Result :=
  .next (if regOk reg then
      transfer s (rFrameBytes reg) fun rx t => (t.setRegs (t.regs.afterRead dst rx)).advance
    else uFault s)

/-- `BURST reg` (R95). -/
def execBurst (reg : Byte) (s : State) : Result :=
  .next (if regOk reg then
      transfer s (burstBytes reg) fun rx t => (t.setRegs (t.regs.setFb (burstFrame rx))).advance
    else uFault s)

/-- The bytes an instruction would send, for the ones that make a transfer. -/
def busBytes (i : Instr) (s : State) : Option (List Byte) :=
  match i with
  | .wr reg val => if regOk reg then some (wFrameBytes reg val) else none
  | .wrr reg src => if regOk reg then some (wFrameBytes reg (s.regs.readSrc src).val) else none
  | .rd reg _ => if regOk reg then some (rFrameBytes reg) else none
  | .burst reg => if regOk reg then some (burstBytes reg) else none
  | .wFrame reg val => some (wFrameBytes (reg.setWidth 8) val)
  | .rFrame reg => some (rFrameBytes (reg.setWidth 8))
  | .bFrame => some (burstBytes regBurst)
  | .wait _ | .cslo | .cshi | .jmp _ | .bb7 _ | .bnz _ | .bqok _ | .bdrdy _ | .btmo _ | .bidbad _ | .bargbad _
  | .xf1 | .xf2 | .tstamp | .omflg | .omrot | .endOp _ _ _ => none
  | .init _ | .getId _ | .setRotation _ | .setOrientation _ | .getMotion _ | .getMotionSlow _ => none

/-- The written-mark of the register whose value an instruction's transfer sends: `WRR`'s source (R91), nothing for any
other. -/
def busWritten (i : Instr) (s : State) : Bool :=
  match i with
  | .wrr _ src => (s.regs.readSrc src).written
  | .wr _ _ | .rd _ _ | .burst _ | .wait _ | .cslo | .cshi | .jmp _ | .bb7 _ | .bnz _ | .bqok _ | .bdrdy _ | .btmo _
  | .bidbad _ | .bargbad _ | .xf1 | .xf2 | .tstamp | .omflg | .omrot | .endOp _ _ _ => true
  | .init _ | .getId _ | .setRotation _ | .setOrientation _ | .getMotion _ | .getMotionSlow _ => true
  | .wFrame _ _ | .rFrame _ | .bFrame => true

end Sys2Proof.Machine
end

