-- ==== Sys2Proof/Machine/Sequencer.lean ====
section
/-! DEFINITION. The sequencer's general micro-ops (42_sequencer_ops.md): the timed wait, `JMP`, the readback branches, the
numeric transforms and `END`. -/

namespace Sys2Proof.Machine

/-- `hold while (Now() - T0) mod 2^32 < ms`, evaluated once (R103): the wait goes on, or `UPC <- UPC + 1`. -/
def waitTest (ms : BitVec 16) (s : State) : State :=
  if (s.elapsed s.regs.t0.val).toNat < ms.toNat then s.setHeld true else (s.setHeld false).advance

/-- `WAIT ms` (R103). The first execution captures `T0`; each execution evaluates the hold condition once, so a wait that
holds is executed again at the next step (log entry 11: DESIGN CHOICE, safe). -/
def execWait (ms : BitVec 16) (s : State) : Result :=
  .next (if s.held then waitTest ms (s.noteRead s.regs.t0.written)
    else waitTest ms (s.setRegs (s.regs.setT0 s.env.now)))

/-- `JMP target` (R104). -/
def execJmp (target : UAddr) (s : State) : Result := .next (branch true target s)

/-- `BB7 target` (R105). -/
def execBb7 (target : UAddr) (s : State) : Result := .next (branch s.rb7 target (s.noteRead s.regs.rb.written))

/-- `BNZ target` (R106). -/
def execBnz (target : UAddr) (s : State) : Result := .next (branch s.rbnz target (s.noteRead s.regs.rb.written))

/-- `XF1` (R107). -/
def execXf1 (s : State) : Result :=
  .next (((s.noteRead s.regs.c1.written).setRegs (s.regs.setC1 (xf1 s.regs.c1.val))).advance)

/-- `XF2` (R108). -/
def execXf2 (s : State) : Result :=
  .next (((s.noteRead s.regs.c2.written).setRegs (s.regs.setC2 (xf2 s.regs.c2.val))).advance)

/-- `data <- (status = OK ? ResultData(result) : 0)` (R110). -/
def endData (status : Status) (result : ResultSel) (r : Regs) : Word :=
  if status = .ok then r.resultData result else 0

/-- The written-mark of what `END` reads: nothing unless the status is `OK`. -/
def endWritten (status : Status) (result : ResultSel) (r : Regs) : Bool :=
  if status = .ok then r.resultWritten result else true

/-- `END status, result, next` (R110); a status no micro-op may encode is an illegal word (R72, R77). -/
def execEnd (status : Status) (result : ResultSel) (next : NextSel) (s : State) : Result :=
  .next (if status.encodable && s.csN then
      ((s.noteRead (endWritten status result s.regs)).setLife (NextSel.apply next s.life)).respond status
        (endData status result s.regs)
    else uFault s)

end Sys2Proof.Machine
end

