-- ==== Sys2Proof/Machine/Dispatch.lean ====
section
/-! DEFINITION. One arm per instruction: the meaning of each row of the opcode table. -/

namespace Sys2Proof.Machine

def exec (i : Instr) (s : State) : Host.Outcome State Fault Refusal :=
  match i with
  -- micro-ops, in the opcode table's order
  | .wr reg val => Sys2Proof.Machine.execWr reg val s
  | .wait ms => Sys2Proof.Machine.execWait ms s
  | .rd reg dst => Sys2Proof.Machine.execRd reg dst s
  | .burst reg => Sys2Proof.Machine.execBurst reg s
  | .cslo => Sys2Proof.Machine.execCslo s
  | .cshi => Sys2Proof.Machine.execCshi s
  | .jmp target => Sys2Proof.Machine.execJmp target s
  | .bb7 target => Sys2Proof.Machine.execBb7 target s
  | .bnz target => Sys2Proof.Machine.execBnz target s
  | .bqok target => Sys2Proof.Machine.execBqok target s
  | .bdrdy target => Sys2Proof.Machine.execBdrdy target s
  | .btmo target => Sys2Proof.Machine.execBtmo target s
  | .bidbad target => Sys2Proof.Machine.execBidbad target s
  | .bargbad target => Sys2Proof.Machine.execBargbad target s
  | .xf1 => Sys2Proof.Machine.execXf1 s
  | .xf2 => Sys2Proof.Machine.execXf2 s
  | .wrr reg src => Sys2Proof.Machine.execWrr reg src s
  | .tstamp => Sys2Proof.Machine.execTstamp s
  | .omflg => Sys2Proof.Machine.execOmflg s
  | .omrot => Sys2Proof.Machine.execOmrot s
  | .endOp status result next => Sys2Proof.Machine.execEnd status result next s
  -- host commands
  | .init arg => Sys2Proof.Machine.execInit arg s
  | .getId arg => Sys2Proof.Machine.execGetId arg s
  | .setRotation arg => Sys2Proof.Machine.execSetRotation arg s
  | .setOrientation arg => Sys2Proof.Machine.execSetOrientation arg s
  | .getMotion arg => Sys2Proof.Machine.execGetMotion arg s
  | .getMotionSlow arg => Sys2Proof.Machine.execGetMotionSlow arg s
  -- wire frames
  | .wFrame reg val => Sys2Proof.Machine.execWFrame reg val s
  | .rFrame reg => Sys2Proof.Machine.execRFrame reg s
  | .bFrame => Sys2Proof.Machine.execBFrame s

end Sys2Proof.Machine
end

