-- ==== Sys2Proof/Machine/Fetch.lean ====
section
/-! DEFINITION. What the next step does (42_sequencer_ops.md rules R100, R101; 70_reset_and_hazards.md rules R190 to R192,
R206): fetching, accepting a command, idling, resetting. Step.lean only calls it. -/

namespace Sys2Proof.Machine

/-- What the next step does. -/
inductive Work where
  /-- `rst_n` is low; with a byte count when it may fall inside a transfer. -/
  | reset (cut : Option Nat)
  /-- This code is decoded and run. -/
  | code (c : Code)
  /-- `UPC` names no ROM word. -/
  | hole
  /-- `BUSY = 0` and nothing is presented: the sequencer does nothing (R101). -/
  | quiet
  deriving DecidableEq, Repr

/-- The code the machine would run if `rst_n` stays high: a frame handed to the transport, else the ROM word at `UPC`
while `BUSY = 1` (R101), else the command presented (R12), else nothing. -/
def pendingWork (s : State) : Work :=
  match s.frame with
  | some bytes => .code (.frame bytes)
  | none =>
    if s.busy then
      match s.rom.read s.upc.toNat with
      | some w => .code (.uop w)
      | none => .hole
    else
      match s.env.host with
      | .cmd op arg :: _ => .code (.cmd (cmdWord op arg))
      | _ => .quiet

/-- What the next step does. -/
def nextWork (s : State) : Work :=
  match s.env.host with
  | .reset :: _ => .reset none
  | .resetDuring n :: _ => .reset (some n)
  | _ => pendingWork s

/-- A command is accepted in this step if one is presented: `cmd_ready = not BUSY` (R12), and the transport is not taken by
a frame. -/
def State.ready (s : State) : Bool := !s.busy && s.frame.isNone

/-- The host's inputs after this step: a command stays presented until it is accepted, every other input is over. -/
def hostAfter (accept : Bool) : List HostInput → List HostInput
  | [] => []
  | .idle :: rest => rest
  | .cmd op arg :: rest => if accept then rest else .cmd op arg :: rest
  | .reset :: rest => rest
  | .resetDuring _ :: rest => rest

/-- What happens around every instruction: the clock advances by a draw, the `rsp_valid` pulse ends (log entry 15: DESIGN CHOICE, unsafe), the host
moves on, and a frame taken by the transport leaves its slot. -/
def beginStep (s : State) : State :=
  { s with
    rspValid := false, frame := none,
    env := { s.env.tick with host := hostAfter s.ready s.env.host } }

/-- A code that is no instruction: `UFAULT` for a micro-op word (R77, R111), `BAD_CMD` for a reserved command (R77, R100), a
refusal for a frame the block never emits (R60, R77). -/
def illegalCode (c : Code) (s : State) : Result :=
  match c with
  | .uop _ => .next (uFault s)
  | .cmd w => .next (dispatch (w.extractLsb' 32 3) (w.extractLsb' 0 32) s)
  | .frame _ => .refused .notAFrame

/-- The instruction the next step would run if `rst_n` stayed high. -/
def pendingInstr (s : State) : Option Instr :=
  match pendingWork s with
  | .code c =>
    match decode c with
    | .ok i => some i
    | .error _ => none
  | _ => none

/-- The bytes of the transfer that the block is about to make, if it is about to make one (none with chip-select low, R81). -/
def pendingTransfer (s : State) : Option (List Byte) :=
  match pendingInstr s with
  | some i => if s.csN then busBytes i s else none
  | none => none

/-- The written-mark of the register whose value that transfer sends. -/
def pendingWritten (s : State) : Bool :=
  match pendingInstr s with
  | some i => busWritten i s
  | none => true

/-- `rst_n` low (R190, R192): between micro-ops, or inside the transfer about to be made, after `n` whole bytes of it. A
`WRR` cut so has read its source, since `v <- ...` stands before `Xfer` in R91: the read is noted as R29 asks (log entry 16: DEDUCED, safe). -/
def resetStep (cut : Option Nat) (s : State) : State :=
  match cut, pendingTransfer s with
  | some n, some tx => hardReset (cutTransfer ((beginStep s).noteRead (pendingWritten s)) tx n)
  | _, _ => hardReset (beginStep s)

/-! ## Presenting a code to the machine -/

/-- The state in which the next step runs exactly this code: a micro-op word at `UPC` with the sequencer running, a command
on the command port of the idle block, or a frame in the transport's slot; the host does nothing else in that step. Log entry 8: DESIGN CHOICE, safe. -/
def State.present (s : State) (c : Code) : State :=
  match c with
  | .uop w =>
    { s with
      rom := s.rom.write s.upc.toNat w, busy := true, held := false, frame := none,
      env := { s.env with host := .idle :: s.env.host } }
  | .cmd w =>
    { s with
      busy := false, frame := none,
      env := { s.env with host := .cmd (w.extractLsb' 32 3) (w.extractLsb' 0 32) :: s.env.host } }
  | .frame bytes =>
    { s with frame := some bytes, env := { s.env with host := .idle :: s.env.host } }

end Sys2Proof.Machine
end

