-- ==== Sys2Proof/Machine/Step.lean ====
section
/-! DEFINITION. One step of the machine (42_sequencer_ops.md rule R101, 70_reset_and_hazards.md rule R206): one micro-op, or
one command accepted, or one reset, or one instant in which the block does nothing. Log entry 1: DEDUCED, safe. -/

namespace Sys2Proof.Machine

def step (s : State) : Host.Outcome State Fault Refusal :=
  match nextWork s with
  | .reset cut => .next (resetStep cut s)
  | .hole => .fault .romHole
  | .quiet => .next (beginStep s)
  | .code c =>
    match decode c with
    | .ok i => exec i (beginStep s)
    | .error _ => illegalCode c (beginStep s)

/-- `s` with the table word `w` placed where the next step runs it (log entries 8, 13); a width no row has places nothing. -/
def State.withFetchWord (s : State) (nbits w : Nat) : State :=
  match tableCode nbits w with
  | some c => s.present c
  | none => s

end Sys2Proof.Machine
end

