-- ==== Sys2Proof/Safety.lean ====
section
/-! DEFINITION. What counts as a safe run, in the terms the statements use: the trace's shape (R8, R60, R80, R81), the
invariants of the machine, and the invariant of the reference micro-ROM (R30, R111, R112). -/

namespace Sys2Proof.Safety

open Sys2Proof.Machine

/-! ## The shape of the trace -/

/-- The events of a trace without their stamps. -/
def events (tr : Trace) : List Event := tr.map (·.ev)

/-- The `BYTE` events of a transfer of `tx` answered with `rx`. -/
def byteEvents (tx rx : List Byte) : List Event := List.zipWith Event.byte tx rx

/-- The events of one transfer (R80): `CSL`, one `BYTE` per position, `CSH`. -/
def window (tx rx : List Byte) : List Event := .csl :: (byteEvents tx rx ++ [.csh])

/-- `t`'s trace is `s`'s with events `evs` added. -/
def Adds (s t : State) (evs : List Event) : Prop := ∃ new : Trace, t.trace = s.trace ++ new ∧ events new = evs

/-- `t` is `s` after bus activity: only the serial lines, the environment less the host's inputs, and the trace may
differ. -/
def OnlyBusMoved (s t : State) : Prop :=
  t = { s with bus := t.bus, env := { t.env with host := s.env.host }, trace := t.trace }

/-- Walks chip-select along the events from the level given (true is high): `CSL` and `CSH` alternate, a `BYTE` stands
inside a window, a `CMD` or a `RSP` outside one (R80, R81). The level at the end, or none if the events break the rule. -/
def csWalk (high : Bool) : List Event → Option Bool
  | [] => some high
  | .csl :: rest => if high then csWalk false rest else none
  | .csh :: rest => if high then none else csWalk true rest
  | .byte _ _ :: rest => if high then none else csWalk false rest
  | .cmd _ _ :: rest => if high then csWalk true rest else none
  | .rsp _ _ :: rest => if high then csWalk true rest else none

/-- The events of a calibration table's replay (R125): one W frame per entry, in order, each answered by a pair of bytes. -/
def replayEvents : List CalEntry → List (Byte × Byte) → List Event
  | [], _ => []
  | _ :: _, [] => []
  | e :: table, r :: answers => window [e.reg ||| 0x80, e.val] [r.1, r.2] ++ replayEvents table answers

/-- The bytes sent, in order. -/
def sentBytes : List Event → List Byte
  | [] => []
  | .byte tx _ :: rest => tx :: sentBytes rest
  | .csl :: rest => sentBytes rest
  | .csh :: rest => sentBytes rest
  | .cmd _ _ :: rest => sentBytes rest
  | .rsp _ _ :: rest => sentBytes rest

/-- The frames of R60: W, R and B. -/
def LegalFrame (tx : List Byte) : Prop :=
  (∃ r v : Byte, r.msb = false ∧ tx = wFrameBytes r v) ∨ (∃ r : Byte, r.msb = false ∧ tx = rFrameBytes r)
    ∨ tx = burstBytes 0x16

/-- The commands accepted. -/
def cmdCount : List Event → Nat
  | [] => 0
  | .cmd _ _ :: rest => cmdCount rest + 1
  | .rsp _ _ :: rest => cmdCount rest
  | .csl :: rest => cmdCount rest
  | .csh :: rest => cmdCount rest
  | .byte _ _ :: rest => cmdCount rest

/-- The responses given. -/
def rspCount : List Event → Nat
  | [] => 0
  | .rsp _ _ :: rest => rspCount rest + 1
  | .cmd _ _ :: rest => rspCount rest
  | .csl :: rest => rspCount rest
  | .csh :: rest => rspCount rest
  | .byte _ _ :: rest => rspCount rest

/-- The next input of the host is `rst_n` low. -/
def resetNext (s : State) : Bool :=
  match s.env.host with
  | .reset :: _ => true
  | .resetDuring _ :: _ => true
  | _ => false

/-- What the bytes received in a transfer of `n` bytes are: `n` of them, and the chip's answers when that many are given. -/
def Answered (s : State) (n : Nat) (rx : List Byte) : Prop :=
  rx.length = n ∧ ∀ given rest : List Byte, given.length = n → s.env.chip = given ++ rest → rx = given

/-- The state after `UFAULT` (R111): chip-select raised with `CSH` if it was low, `STATE = FAILED`, the response `(UFAULT, 0)`,
the command over (R208), nothing else. -/
def afterUFault (s : State) : State :=
  { s with
    life := .failed, csN := true, rspStatus := 5, rspData := 0, rspValid := true, busy := false, held := false,
    trace := s.trace ++ ((if s.csN then [] else [{ ev := .csh, time := s.env.now }]) ++
      [{ ev := .rsp 5 0, time := s.env.now }]) }

/-- The illegal micro-op words, as R77 lists them: a reserved opcode; a non-zero unused field; bit 7 of an address; a reserved
destination, source, condition, status, result or next state; a `BURST` count other than 12. -/
def IllegalWord (w : UWord) : Prop :=
  w.op = 0xE ∨ w.op = 0xF
  ∨ (w.op ∈ [0x0#4, 0x1#4, 0x3#4, 0x4#4, 0x5#4, 0x7#4, 0x8#4, 0xA#4, 0xB#4, 0xC#4] ∧ w.x ≠ 0)
  ∨ (w.op ∈ [0x4#4, 0x5#4, 0x7#4, 0x8#4, 0xA#4, 0xB#4, 0xC#4] ∧ (w.a ≠ 0 ∨ w.b ≠ 0))
  ∨ (w.op ∈ [0x2#4, 0x9#4] ∧ w.b ≠ 0)
  ∨ (w.op ∈ [0x0#4, 0x2#4, 0x3#4, 0x9#4] ∧ w.a.msb = true)
  ∨ (w.op = 0x2 ∧ w.x ∈ [5#4, 6#4, 7#4, 13#4, 14#4, 15#4])
  ∨ (w.op = 0x9 ∧ w.x ∉ [1#4, 2#4, 5#4])
  ∨ (w.op = 0x6 ∧ 8 ≤ w.x.toNat)
  ∨ (w.op = 0xD ∧ (3 < w.a.toNat ∨ 3 < w.b.toNat ∨ 2 < w.x.toNat))
  ∨ (w.op = 0x3 ∧ w.b ≠ 0x0C)

/-! ## Invariants of the machine, whatever its micro-ROM -/

/-- The block is quiescent (R208): chip-select is high and no wait is in progress. -/
def Quiescent (s : State) : Prop := s.csN = true ∧ s.held = false

/-- Chip-select discipline (R16, R81): quiescent whenever `BUSY = 0`, and the trace is well framed and ends at the level
`CS_N` has. -/
def Disciplined (s : State) : Prop :=
  (s.busy = false → Quiescent s) ∧ csWalk true (events s.trace) = some s.csN

/-! ## The run -/

/-- The last response was a fault of the micro-ROM (R208), or a register was read before its first write (R29). -/
def GoneWrong (s : State) : Prop := s.undefRead = true ∨ s.rspStatus = Status.ufault.code

/-! ## The clock (R199, R206) -/

/-- By how many milliseconds the clock's next `n` draws advance it, counted without the wrap of `now_ms`. -/
def advanced (e : Env) : Nat → Nat
  | 0 => 0
  | n + 1 => (e.tick.now - e.now).toNat + advanced e.tick n

/-- The fairness premise of R199: `now_ms`, counted without its wrap, eventually exceeds any value. The machine does not
impose it; a claim that something ends takes it as a premise. Log entry 23: DEDUCED, safe. -/
def Fair (e : Env) : Prop := ∀ m : Nat, ∃ n : Nat, m < advanced e n

/-- A wait of `ms` milliseconds that took `d` is within `WAIT_SLACK` (R5, R103). -/
def withinSlack (ms d : Nat) : Prop := ms ≤ d ∧ ∀ slack, Config.waitSlack = some slack → d ≤ ms + slack

/-! ## The invariant of the reference micro-ROM (R112) -/

/-- The idle block between two commands (R208), on the reference ROM, with one command presented and nothing after it. -/
structure Presents (t : CalTab) (op : BitVec 3) (arg : Word) (s : State) : Prop where
  rom : s.rom = Rom.reference t
  noFrame : s.frame = none
  notBusy : s.busy = false
  quiescent : Quiescent s
  host : s.env.host = [.cmd op arg]

/-- The sequencer is about to execute the micro-op at index `k` of the reference ROM, chip-select high, no wait in progress, the
host doing nothing. -/
structure RunsAt (t : CalTab) (k : Nat) (s : State) : Prop where
  rom : s.rom = Rom.reference t
  noFrame : s.frame = none
  busy : s.busy = true
  upc : s.upc.toNat = k
  chipSelect : s.csN = true
  held : s.held = false
  host : s.env.host = []

/-- What holds when the sequencer is about to execute the micro-op at index `k` of the reference program: the lifecycle
state (R182), chip-select (R81), and which registers have been written (R30). -/
structure AtIndex (t : CalTab) (k : Nat) (s : State) : Prop where
  inside : k < CalTab.p4 t + 5
  life : s.life = if k < 0x1D then .ready else .uninit
  chipSelect : s.csN = !(k == 0x1E || k == 0x1F)
  held : s.held = true → (∃ ms, (refProgram t)[k]? = some (.wait ms)) ∧ s.regs.t0.written = true
  arg : s.regs.arg.written = true
  rotation : k = 0x05 → rotationMask s.regs.arg.val ≠ none
  mask : k = 0x02 ∨ k = 0x06 → s.regs.om.written = true
  start : 0x0A ≤ k ∧ k ≤ 0x0E ∨ 0x12 ≤ k ∧ k ≤ 0x1A → s.regs.tstart.written = true
  burst : k = 0x0C ∨ k = 0x0F → s.regs.fb.written = true
  poll : ∀ j : Fin 5, 0x14 + j.val ≤ k ∧ k ≤ 0x1B → (s.regs.pb[j.val]).written = true
  readback : k = CalTab.p1 t + 1 ∨ k = CalTab.p2 t + 1 → s.regs.rb.written = true
  c1 : CalTab.p2 t + 3 ≤ k ∧ k < CalTab.p3 t → s.regs.c1.written = true
  c2 : CalTab.p2 t + 4 ≤ k ∧ k < CalTab.p3 t → s.regs.c2.written = true
  product : CalTab.p4 t + 1 ≤ k → s.regs.pidr.written = true
  revision : CalTab.p4 t + 2 ≤ k → s.regs.revr.written = true
  identity : k = CalTab.p4 t + 3 → (s.regs.pidr.val, s.regs.revr.val) = idExpect

/-- The invariant: the ROM is the reference ROM; nothing has gone wrong; `READY` means the identity check passed (R19,
R135); the block is quiescent when idle; and while it runs, `UPC` lies in the program with what `AtIndex` says. -/
structure Reference (t : CalTab) (s : State) : Prop where
  rom : s.rom = Rom.reference t
  noFrame : s.frame = none
  noUndefRead : s.undefRead = false
  status : s.rspStatus ≠ Status.ufault.code ∧ s.rspStatus ≠ 7
  identity : s.life = .ready →
    s.regs.pidr = Cell.of idExpect.1 ∧ s.regs.revr = Cell.of idExpect.2
  idle : s.busy = false → Quiescent s
  running : s.busy = true → AtIndex t s.upc.toNat s

end Sys2Proof.Safety
end

