-- ==== Sys2Proof/Certificates/Slice0/Obligations.lean ====
section
/-! DEFINITION. The statements for the provers. A `mark` bound by an existential is the value of the model's own field
`undefRead` (log entry 2), about which the statement says nothing; ReadBeforeWriteMarksTheRun says what it is. -/

open Sys2Proof Sys2Proof.Machine Sys2Proof.Safety

/-! ## Encoding -/

/-- R60 to R63, R65, R68 to R73: decoding an encoded well-formed instruction gives it back, with every operand at every value. -/
def Obligations.DecodeInvertsEncode : Prop :=
  ∀ i : Instr, i.wellFormed = true → decode (encode i) = .ok i

/-- R60 to R63, R65, R68 to R73: a code that decodes is the encoding of the well-formed instruction it decodes to, so no code has two readings
and no bit of one is ignored. -/
def Obligations.EncodeInvertsDecode : Prop :=
  ∀ (c : Code) (i : Instr), decode c = .ok i → i.wellFormed = true ∧ encode i = c

/-- R77: a micro-op word is refused exactly when it is one of the illegal words R77 lists, and a command word exactly when its
code is 6 or 7. -/
def Obligations.DecoderRefusesExactlyTheIllegalWords : Prop :=
  (∀ w : UWord, (∃ e, decodeUop w = .error e) ↔ IllegalWord w) ∧
  (∀ (op : BitVec 3) (arg : Word), (∃ e, decodeCmd (cmdWord op arg) = .error e) ↔ op = 6 ∨ op = 7)

/-- Words the spec prints: micro-ops of R84, R85, R90 to R92, R95, R103 to R108, R110, R131, R140, R141, R150, a command of
R65, and the frames of R61 to R63. -/
def Obligations.PrintedWordsDecode : Prop :=
  decodeUop 0x003A5A = .ok (.wr 0x3A 0x5A) ∧ decodeUop 0x1000F0 = .ok (.wait 240) ∧
  decodeUop 0x217000 = .ok (.rd 0x70 .c1) ∧ decodeUop 0x2C0600 = .ok (.rd 0x06 (.pb 4)) ∧
  decodeUop 0x30160C = .ok (.burst 0x16) ∧ decodeUop 0x400000 = .ok .cslo ∧ decodeUop 0x500000 = .ok .cshi ∧
  decodeUop 0x60000A = .ok (.jmp 0x000A) ∧ decodeUop 0x61002F = .ok (.bb7 0x002F) ∧ decodeUop 0x62003C = .ok (.bnz 0x003C) ∧
  decodeUop 0x660123 = .ok (.bidbad 0x0123) ∧ decodeUop 0x700000 = .ok .xf1 ∧ decodeUop 0x800000 = .ok .xf2 ∧
  decodeUop 0x955B00 = .ok (.wrr 0x5B .om) ∧ decodeUop 0xA00000 = .ok .tstamp ∧ decodeUop 0xB00000 = .ok .omflg ∧
  decodeUop 0xC00000 = .ok .omrot ∧ decodeUop 0xD20100 = .ok (.endOp .initError .none .failed) ∧
  decodeCmd 0x20000005A = .ok (.setRotation 90) ∧
  decodeFrame [0xBA, 0x5A] = .ok (.wFrame 0x3A 0x5A) ∧ decodeFrame [0x67, 0x00] = .ok (.rFrame 0x67) ∧
  decodeFrame [0x16, 0, 0, 0, 0, 0, 0, 0, 0, 0, 0, 0, 0] = .ok .bFrame

/-- R77: the assembler refuses `RDN reg, n` exactly when `reg` or `reg + n - 1` is above 0x7F, and otherwise it is `RD reg+k,
d_k` in increasing address order (R78, R93; that `n = 0` gives no micro-op is the model's choice, log entry 22). It refuses a
program exactly when some line is ill-formed or no micro-op, so any register operand above 0x7F; otherwise it gives each
line's word. A calibration table that meets R120 assembles to the reference ROM's words. -/
def Obligations.AssemblerExpandsAndRefuses : Prop :=
  (∀ (reg : Nat) (ds : List Dst), rdn reg ds = none ↔ 0x7F < reg ∨ 0x7F < reg + ds.length - 1) ∧
  (∀ (reg : Nat) (ds : List Dst) (prog : List Instr), rdn reg ds = some prog →
    prog.length = ds.length ∧
      ∀ (k : Nat) (d : Dst), ds[k]? = some d → prog[k]? = some (.rd (BitVec.ofNat 8 (reg + k)) d)) ∧
  (∀ prog : List Instr, assemble prog = none ↔ ∃ i ∈ prog, i.wellFormed = false ∨ ∀ w, encode i ≠ .uop w) ∧
  (∀ (prog : List Instr) (reg : Byte), 0x7F < reg.toNat →
    (∃ val, .wr reg val ∈ prog) ∨ (∃ dst, .rd reg dst ∈ prog) ∨ .burst reg ∈ prog ∨ (∃ src, .wrr reg src ∈ prog) →
    assemble prog = none) ∧
  (∀ (prog : List Instr) (ws : List UWord), assemble prog = some ws →
    ws.length = prog.length ∧
      ∀ (k : Nat) (i : Instr), prog[k]? = some i → ∃ w, encode i = .uop w ∧ ws[k]? = some w) ∧
  (∀ t : CalTab, CalTab.valid t = true → assemble (refProgram t) = some (refWords t))

/-- R112: every word of the reference micro-ROM, index by index, for any calibration table that meets R120. -/
def Obligations.ReferenceRomIsTheSpecsTable : Prop :=
  ∀ t : CalTab, CalTab.valid t = true →
    let rom := Rom.reference t
    let p1 := 0x0027 + t.a.length
    let p2 := p1 + 5 + t.b.length
    let p3 := p2 + 8 + t.c.length
    let p4 := p3 + t.d1.length + t.d2.length + t.d3.length + 2
    let writes (first : Nat) (table : List CalEntry) : Prop :=
      ∀ (k : Nat) (e : CalEntry), table[k]? = some e →
        rom.read (first + k) = some (BitVec.ofNat 24 (e.reg.toNat * 256 + e.val.toNat))
    (∀ k : Fin 0x27, rom.read k.val = some
      ([0xD00001#24, 0xB00000#24, 0x955B00#24, 0xD00000#24, 0x670008#24, 0xC00000#24, 0x955B00#24, 0xD00000#24,
        0xD00300#24, 0xA00000#24, 0x650010#24, 0x30160C#24, 0x63000F#24, 0x10000A#24, 0x60000A#24, 0xD00002#24,
        0xD00200#24, 0xA00000#24, 0x65001C#24, 0x280200#24, 0x290300#24, 0x2A0400#24, 0x2B0500#24, 0x2C0600#24,
        0x64001B#24, 0x100001#24, 0x600012#24, 0xD00003#24, 0xD00200#24, 0x400000#24, 0x100032#24, 0x500000#24,
        0x003A5A#24, 0x100014#24, 0x200200#24, 0x200300#24, 0x200400#24, 0x200500#24, 0x200600#24][k.val])) ∧
    writes 0x0027 t.a ∧
    rom.read p1 = some 0x206700 ∧ rom.read (p1 + 1) = some (BitVec.ofNat 24 (0x610000 + (p1 + 4))) ∧
    rom.read (p1 + 2) = some 0x004802 ∧ rom.read (p1 + 3) = some (BitVec.ofNat 24 (0x600000 + (p1 + 5))) ∧
    rom.read (p1 + 4) = some 0x004804 ∧
    writes (p1 + 5) t.b ∧
    rom.read p2 = some 0x207300 ∧ rom.read (p2 + 1) = some (BitVec.ofNat 24 (0x620000 + p3)) ∧
    rom.read (p2 + 2) = some 0x217000 ∧ rom.read (p2 + 3) = some 0x227100 ∧
    rom.read (p2 + 4) = some 0x700000 ∧ rom.read (p2 + 5) = some 0x800000 ∧
    writes (p2 + 6) t.c ∧
    rom.read (p2 + 6 + t.c.length) = some 0x917000 ∧ rom.read (p2 + 7 + t.c.length) = some 0x927100 ∧
    writes p3 t.d1 ∧ rom.read (p3 + t.d1.length) = some 0x10000A ∧
    writes (p3 + t.d1.length + 1) t.d2 ∧ rom.read (p3 + t.d1.length + t.d2.length + 1) = some 0x1000F0 ∧
    writes (p3 + t.d1.length + t.d2.length + 2) t.d3 ∧
    rom.read p4 = some 0x230000 ∧ rom.read (p4 + 1) = some 0x240100 ∧
    rom.read (p4 + 2) = some (BitVec.ofNat 24 (0x660000 + (p4 + 4))) ∧
    rom.read (p4 + 3) = some 0xD10000 ∧ rom.read (p4 + 4) = some 0xD20100 ∧
    ∀ k : Nat, p4 + 5 ≤ k → rom.read k = none

/-! ## The step -/

/-- R101, R12, R60: when the ROM word at `UPC`, the command presented to the idle block, or the frame in the transport's
slot decodes to `i`, a step without reset is `exec i` of the state in which the step has begun: the clock has advanced by a
draw, the `rsp_valid` pulse is over, the frame slot is empty, an accepted command is no longer presented. The model's
choices here: log entries 1, 5, 12 and 15. -/
def Obligations.StepRunsDecodedInstruction : Prop :=
  ∀ (s : State) (i : Instr), resetNext s = false →
    (∀ w, s.frame = none → s.busy = true → s.rom.read s.upc.toNat = some w → decodeUop w = .ok i →
      step s = exec i (beginStep s)) ∧
    (∀ op arg rest, s.frame = none → s.busy = false → s.env.host = .cmd op arg :: rest →
      decodeCmd (cmdWord op arg) = .ok i → step s = exec i (beginStep s) ∧ (beginStep s).env.host = rest) ∧
    (∀ bytes, s.frame = some bytes → decodeFrame bytes = .ok i → step s = exec i (beginStep s)) ∧
    beginStep s = { s with
      rspValid := false, frame := none,
      env := { s.env.tick with host := hostAfter (!s.busy && s.frame.isNone) s.env.host } }

/-- R12, R101: with nothing to run and no command presented a step changes only the clock, the host's position and the
pulse; a command presented while `BUSY = 1` has no effect, whichever command it is, and is still presented after the step.
That an idle instant is a step with one draw of the clock, the list of the host's inputs, and when the pulse ends are the
model's: log entries 1, 5, 7 and 15; its reading of R12 for a command executed while `BUSY = 1`: log entry 19. -/
def Obligations.BusyBlockMakesCommandsWait : Prop :=
  (∀ s : State, s.busy = false → s.frame = none → resetNext s = false → (∀ op arg rest, s.env.host ≠ .cmd op arg :: rest) →
    step s = .next { s with rspValid := false, env := { s.env.tick with host := hostAfter true s.env.host } }) ∧
  (∀ (s : State) (arg : Word), s.busy = true →
    exec (.init arg) s = .next s ∧ exec (.getId arg) s = .next s ∧ exec (.setRotation arg) s = .next s ∧
    exec (.setOrientation arg) s = .next s ∧ exec (.getMotion arg) s = .next s ∧ exec (.getMotionSlow arg) s = .next s) ∧
  (∀ (s t : State) (op : BitVec 3) (arg : Word) (rest : List HostInput), s.busy = true → s.env.host = .cmd op arg :: rest →
    step s = .next t → t.env.host = s.env.host)

/-- R77, R111: a ROM word that decodes to nothing takes `UFAULT`; an index without a ROM word stops the machine; bytes in
the transport's slot that are no frame of R60 are refused. That `UFAULT` is a next state, the ROM hole's fault and the
refusal are the model's: log entries 10, 9 and 17. -/
def Obligations.StepOnIllegalCodes : Prop :=
  ∀ s : State, resetNext s = false →
    (∀ w e, s.frame = none → s.busy = true → s.rom.read s.upc.toNat = some w → decodeUop w = .error e →
      step s = .next (afterUFault (beginStep s))) ∧
    (s.frame = none → s.busy = true → s.rom.read s.upc.toNat = none → step s = .fault .romHole) ∧
    (∀ bytes e, s.frame = some bytes → decodeFrame bytes = .error e → step s = .refused .notAFrame)

/-! ## Dispatch and responses -/

/-- R100: `Dispatch`, for all eight codes: the trace gains `CMD`; a reserved code is answered `BAD_CMD`, a command the
lifecycle state does not allow `BAD_STATE`, with no register but the response's changed; an allowed one latches `ARG`, sets
`BUSY` and starts at its entry point. The six commands are the dispatches of the codes 0 to 5, and a step of the idle block
dispatches whatever code is presented. -/
def Obligations.DispatchGatesCommands : Prop :=
  (∀ (op : BitVec 3) (arg : Word) (s : State), s.busy = false →
    let refused (status : BitVec 3) : State := { s with
      rspStatus := status, rspData := 0, rspValid := true, held := false,
      trace := s.trace ++ [{ ev := .cmd op arg, time := s.env.now }, { ev := .rsp status 0, time := s.env.now }] }
    let runs (entry : UAddr) : State := { s with
      regs := { s.regs with arg := Cell.of arg }, busy := true, upc := entry,
      trace := s.trace ++ [{ ev := .cmd op arg, time := s.env.now }] }
    dispatch op arg s =
      if op = 6 ∨ op = 7 then refused 6
      else if op = 0 ∧ s.life ≠ .uninit then refused 4
      else if op ≠ 0 ∧ s.life ≠ .ready then refused 4
      else runs (if op = 1 then 0x0000 else if op = 3 then 0x0001 else if op = 2 then 0x0004
        else if op = 4 then 0x0009 else if op = 5 then 0x0011 else 0x001D)) ∧
  (∀ (arg : Word) (s : State),
    exec (.init arg) s = .next (dispatch 0 arg s) ∧ exec (.getId arg) s = .next (dispatch 1 arg s) ∧
    exec (.setRotation arg) s = .next (dispatch 2 arg s) ∧ exec (.setOrientation arg) s = .next (dispatch 3 arg s) ∧
    exec (.getMotion arg) s = .next (dispatch 4 arg s) ∧ exec (.getMotionSlow arg) s = .next (dispatch 5 arg s)) ∧
  (∀ (op : BitVec 3) (arg : Word) (rest : List HostInput) (s : State), s.busy = false → s.frame = none →
    s.env.host = .cmd op arg :: rest → step s = .next (dispatch op arg (beginStep s)))

/-- R130, R135, R143, R144, R154, R162: in the lifecycle state that allows it, each command starts its microprogram: `ARG` is
latched, `BUSY` is set, `UPC` is the command's entry point, the trace gains `CMD`, nothing else changes. -/
def Obligations.CommandsStartTheirPrograms : Prop :=
  ∀ (arg : Word) (s : State), s.busy = false →
    let started (op : BitVec 3) (entry : UAddr) : State := { s with
      regs := { s.regs with arg := Cell.of arg }, busy := true, upc := entry,
      trace := s.trace ++ [{ ev := .cmd op arg, time := s.env.now }] }
    (s.life = .uninit → exec (.init arg) s = .next (started 0 0x001D)) ∧
    (s.life = .ready → exec (.getId arg) s = .next (started 1 0x0000)) ∧
    (s.life = .ready → exec (.setRotation arg) s = .next (started 2 0x0004)) ∧
    (s.life = .ready → exec (.setOrientation arg) s = .next (started 3 0x0001)) ∧
    (s.life = .ready → exec (.getMotion arg) s = .next (started 4 0x0009)) ∧
    (s.life = .ready → exec (.getMotionSlow arg) s = .next (started 5 0x0011))

/-- R110: `END` with chip-select high and a status a micro-op may encode: the lifecycle state by `next`, the response with
the result's data when the status is `OK` and 0 otherwise, `BUSY` cleared, nothing else. With chip-select low, or a status
above 3, `UFAULT`. The read of an unwritten register and `UFAULT` as a next state: log entries 2 and 10. -/
def Obligations.EndResponds : Prop :=
  ∀ (status : Status) (result : ResultSel) (next : NextSel) (s : State),
    (status.code.toNat ≤ 3 → s.csN = true →
      let data : Word :=
        if status = .ok then
          match result with
          | .none => 0
          | .id => 0x0000#16 ++ s.regs.revr.val ++ s.regs.pidr.val
          | .burst => s.regs.fb.val[6] ++ s.regs.fb.val[5] ++ s.regs.fb.val[4] ++ s.regs.fb.val[3]
          | .polled => (s.regs.pb[4]).val ++ (s.regs.pb[3]).val ++ (s.regs.pb[2]).val ++ (s.regs.pb[1]).val
        else 0
      ∃ mark, exec (.endOp status result next) s = .next { s with
        life := (match next with | .keep => s.life | .ready => .ready | .failed => .failed),
        rspStatus := status.code, rspData := data, rspValid := true, busy := false, held := false, undefRead := mark,
        trace := s.trace ++ [{ ev := .rsp status.code data, time := s.env.now }] }) ∧
    (3 < status.code.toNat ∨ s.csN = false → exec (.endOp status result next) s = .next (afterUFault s)) ∧
    decodeUop 0xD00002 = .ok (.endOp .ok .burst .keep) ∧ decodeUop 0xD20100 = .ok (.endOp .initError .none .failed) ∧
    decodeUop 0xD10000 = .ok (.endOp .ok .none .ready)

/-- R67, R74, R75, R153, R161: the response data of a motion command is `{dy, dx}`, and its halves read as two's-complement
numbers are the parsers' `dx` and `dy`, which range over -32768 .. 32767. -/
def Obligations.MotionResultIsTheParsedFrame : Prop :=
  ∀ r : Regs,
    i16 ((r.resultData .burst).extractLsb' 0 16) = (parseBurst r.fb.val).dx ∧
    i16 ((r.resultData .burst).extractLsb' 16 16) = (parseBurst r.fb.val).dy ∧
    i16 ((r.resultData .polled).extractLsb' 0 16) = (parsePolled r.pb).dx ∧
    i16 ((r.resultData .polled).extractLsb' 16 16) = (parsePolled r.pb).dy ∧
    (∀ v : BitVec 16, i16 v = v.toInt ∧ -32768 ≤ i16 v ∧ i16 v ≤ 32767)

/-! ## The bus -/

/-- R80: `Xfer` begun with chip-select high puts exactly one window on the trace, receives as many bytes as it sends, leaves
chip-select high, and changes nothing but the lines, the clock, the chip's answers and the trace. -/
def Obligations.XferIsOneWindow : Prop :=
  ∀ (s : State) (tx : List Byte), s.csN = true →
    Adds s (xfer s tx).2 (window tx (xfer s tx).1) ∧ (xfer s tx).1.length = tx.length ∧ (xfer s tx).2.csN = true ∧
      OnlyBusMoved s (xfer s tx).2

/-- R42, R80: the bytes received are the chip's answers in order: those given, while any are left, and then `Slave(h,
tx[i])`, with `h` the whole trace before that byte. The order of the answers given and the free ones is the model's: log
entry 6. -/
def Obligations.EveryByteIsTheOraclesAnswer : Prop :=
  ∀ (s : State) (tx : List Byte) (i : Nat) (hi : i < tx.length),
    (xfer s tx).1[i]? = some (if h : i < s.env.chip.length then s.env.chip[i]
      else Config.slave ((xfer s tx).2.trace.take (s.trace.length + 1 + i)) tx[i]) ∧
    (xfer s tx).2.env.chip = s.env.chip.drop tx.length

/-- R47, R86: in every clock mode a byte is eight pulses, `mosi` carrying bit 7 first and bit 0 last, `miso` sampled bit 7
first into the receive register, and `sclk` at its idle level after each: low in modes 0 and 1, high in 2 and 3. A pulse is
two edges, the second back to that level; `miso` is sampled on the rising one in modes 0 and 3, on the falling one in 1 and
2. What is modelled below the byte: log entry 14. -/
def Obligations.BytesGoMostSignificantBitFirst : Prop :=
  ∀ (mode : SpiMode) (b : Bus) (tx answer : Byte),
    (∀ n, n < 8 →
      let after := Bus.pulses mode { b with txShift := tx, bitCount := 8 } ((wireBits answer).take (n + 1))
      after.mosi = tx.getLsbD (7 - n) ∧ after.miso = answer.getLsbD (7 - n) ∧ after.bitCount = 7 - n ∧
        after.sclk = idleLevel mode) ∧
    (b.exchange mode tx answer).rxShift = answer ∧ (b.exchange mode tx answer).bitCount = 0 ∧
    idleLevel mode = (match mode with | .mode0 => false | .mode1 => false | .mode2 => true | .mode3 => true) ∧
    (∀ high level : Bool, b.edge mode high level =
      if (match mode with | .mode0 => high | .mode1 => !high | .mode2 => !high | .mode3 => high) then
        { b with sclk := high, miso := level, rxShift := b.rxShift.shiftConcat level }
      else { b with sclk := high }) ∧
    (∀ level : Bool,
      let clocked := (({ b with mosi := b.txShift.msb } : Bus).edge mode (!idleLevel mode) level).edge mode (idleLevel mode) level
      b.pulse mode level = { clocked with txShift := clocked.txShift <<< 1, bitCount := clocked.bitCount - 1 })

/-- R84, R85: `CSLO` and `CSHI` move chip-select with no transfer, or take `UFAULT` when it is already there. `UFAULT` as a
next state: log entry 10. -/
def Obligations.CsloAndCshiMoveChipSelect : Prop :=
  ∀ s : State,
    (s.csN = true → exec .cslo s = .next { s with
      csN := false, upc := s.upc + 1, trace := s.trace ++ [{ ev := .csl, time := s.env.now }] }) ∧
    (s.csN = false → exec .cslo s = .next (afterUFault s)) ∧
    (s.csN = false → exec .cshi s = .next { s with
      csN := true, upc := s.upc + 1, trace := s.trace ++ [{ ev := .csh, time := s.env.now }] }) ∧
    (s.csN = true → exec .cshi s = .next (afterUFault s)) ∧
    decodeUop 0x400000 = .ok .cslo ∧ decodeUop 0x500000 = .ok .cshi

/-! ## Register access -/

/-- R90: `WR` sends one W frame, keeps nothing of what it receives, and changes nothing else but `UPC`. `UFAULT` as a next
state: log entry 10. -/
def Obligations.WrSendsOneWriteFrame : Prop :=
  ∀ (reg val : Byte) (s : State),
    (reg.msb = false → s.csN = true → ∃ rx t, exec (.wr reg val) s = .next t ∧ Answered s 2 rx ∧
      Adds s t (window [reg ||| 0x80, val] rx) ∧ OnlyBusMoved { s with upc := s.upc + 1 } t) ∧
    (reg.msb = true ∨ s.csN = false → exec (.wr reg val) s = .next (afterUFault s)) ∧
    decodeUop 0x003A5A = .ok (.wr 0x3A 0x5A)

/-- R91: `WRR` sends the selected register in one W frame and changes no register but `UPC`. The read of an unwritten
register and `UFAULT` as a next state: log entries 2 and 10. -/
def Obligations.WrrSendsTheSelectedRegister : Prop :=
  ∀ (reg : Byte) (src : Src) (s : State),
    (reg.msb = false → s.csN = true →
      let v := (match src with | .c1 => s.regs.c1.val | .c2 => s.regs.c2.val | .om => s.regs.om.val)
      ∃ rx mark t, exec (.wrr reg src) s = .next t ∧ Answered s 2 rx ∧
        Adds s t (window [reg ||| 0x80, v] rx) ∧ OnlyBusMoved { s with upc := s.upc + 1, undefRead := mark } t) ∧
    (reg.msb = true ∨ s.csN = false → exec (.wrr reg src) s = .next (afterUFault s)) ∧
    decodeUop 0x955B00 = .ok (.wrr 0x5B .om)

/-- R92: `RD` sends one R frame; the second byte received goes to `RB` and to the destination, the echo byte nowhere.
`UFAULT` as a next state: log entry 10. -/
def Obligations.RdKeepsTheSecondByte : Prop :=
  ∀ (reg : Byte) (dst : Dst) (s : State),
    (reg.msb = false → s.csN = true → ∃ echo v t, exec (.rd reg dst) s = .next t ∧ Answered s 2 [echo, v] ∧
      Adds s t (window [reg, 0x00] [echo, v]) ∧
      OnlyBusMoved { s with
        upc := s.upc + 1,
        regs := (match dst with
          | .discard => { s.regs with rb := Cell.of v }
          | .c1 => { s.regs with rb := Cell.of v, c1 := Cell.of v }
          | .c2 => { s.regs with rb := Cell.of v, c2 := Cell.of v }
          | .pidr => { s.regs with rb := Cell.of v, pidr := Cell.of v }
          | .revr => { s.regs with rb := Cell.of v, revr := Cell.of v }
          | .pb k => { s.regs with rb := Cell.of v, pb := s.regs.pb.set k.val (Cell.of v) k.isLt }) } t) ∧
    (reg.msb = true ∨ s.csN = false → exec (.rd reg dst) s = .next (afterUFault s)) ∧
    decodeUop 0x206700 = .ok (.rd 0x67 .discard)

/-- R95: `BURST` sends the address and twelve dummy bytes in one window; the thirteen bytes received are `FB[0..12]`; `RB`
is not changed. `UFAULT` as a next state: log entry 10. -/
def Obligations.BurstFillsTheFrameBuffer : Prop :=
  ∀ (reg : Byte) (s : State),
    (reg.msb = false → s.csN = true → ∃ (frame : Vector Byte 13) (t : State), exec (.burst reg) s = .next t ∧
      Answered s 13 frame.toList ∧
      Adds s t (window [reg, 0, 0, 0, 0, 0, 0, 0, 0, 0, 0, 0, 0] frame.toList) ∧
      OnlyBusMoved { s with upc := s.upc + 1, regs := { s.regs with fb := Cell.of frame } } t) ∧
    (reg.msb = true ∨ s.csN = false → exec (.burst reg) s = .next (afterUFault s)) ∧
    decodeUop 0x30160C = .ok (.burst 0x16)

/-- R60 to R64: the three wire frames on their own, and R81, R111: with chip-select low each takes `UFAULT`. That a frame
runs on its own, its effect on `RB` and `FB` and the untouched `UPC` are the model's choice, log entry 12; `UFAULT` as a next
state: log entry 10. -/
def Obligations.WireFramesRun : Prop :=
  ∀ s : State,
    (s.csN = true →
      (∀ (reg : BitVec 7) (val : Byte), ∃ rx t, exec (.wFrame reg val) s = .next t ∧ Answered s 2 rx ∧
        Adds s t (window [1#1 ++ reg, val] rx) ∧ OnlyBusMoved s t) ∧
      (∀ reg : BitVec 7, ∃ echo v t, exec (.rFrame reg) s = .next t ∧ Answered s 2 [echo, v] ∧
        Adds s t (window [0#1 ++ reg, 0x00] [echo, v]) ∧
        OnlyBusMoved { s with regs := { s.regs with rb := Cell.of v } } t) ∧
      (∃ (frame : Vector Byte 13) (t : State), exec .bFrame s = .next t ∧ Answered s 13 frame.toList ∧
        Adds s t (window [0x16, 0, 0, 0, 0, 0, 0, 0, 0, 0, 0, 0, 0] frame.toList) ∧
        OnlyBusMoved { s with regs := { s.regs with fb := Cell.of frame } } t)) ∧
    (s.csN = false → ∀ (reg : BitVec 7) (val : Byte),
      exec (.wFrame reg val) s = .next (afterUFault s) ∧ exec (.rFrame reg) s = .next (afterUFault s) ∧
      exec .bFrame s = .next (afterUFault s))

/-! ## The sequencer -/

/-- R104, R105, R106: `JMP` always, `BB7` on bit 7 of `RB`, `BNZ` on `RB != 0`; a branch writes only `UPC`. That an
unwritten `RB` is read and the machine goes on: log entry 2. -/
def Obligations.ReadbackBranches : Prop :=
  ∀ (target : UAddr) (s : State),
    exec (.jmp target) s = .next { s with upc := target } ∧
    (∃ mark, exec (.bb7 target) s = .next { s with
      upc := if 0x80 ≤ s.regs.rb.val.toNat then target else s.upc + 1, undefRead := mark }) ∧
    (∃ mark, exec (.bnz target) s = .next { s with
      upc := if s.regs.rb.val = 0x00 then s.upc + 1 else target, undefRead := mark }) ∧
    decodeUop 0x60000A = .ok (.jmp 0x000A) ∧ decodeUop 0x61002F = .ok (.bb7 0x002F) ∧
    decodeUop 0x62003C = .ok (.bnz 0x003C)

/-- R152, R160: `BQOK` on a quality byte strictly above 0x19, `BDRDY` on bit 7 of `PB[0]`; a branch writes only `UPC`. That
an unwritten register is read and the machine goes on: log entry 2. -/
def Obligations.SampleGates : Prop :=
  ∀ (target : UAddr) (s : State),
    (∃ mark, exec (.bqok target) s = .next { s with
      upc := if 0x19 < (s.regs.fb.val[7]).toNat then target else s.upc + 1, undefRead := mark }) ∧
    (∃ mark, exec (.bdrdy target) s = .next { s with
      upc := if 0x80 ≤ ((s.regs.pb[0]).val).toNat then target else s.upc + 1, undefRead := mark }) ∧
    decodeUop 0x63000F = .ok (.bqok 0x000F) ∧ decodeUop 0x64001B = .ok (.bdrdy 0x001B)

/-- R131, R142: `BIDBAD` on an identity pair other than (0x49, 0x00), `BARGBAD` on an argument other than 0, 90, 180, 270,
all 32 bits compared; a branch writes only `UPC`. That an unwritten register is read and the machine goes on: log entry 2. -/
def Obligations.IdentityAndArgumentChecks : Prop :=
  ∀ (target : UAddr) (s : State),
    (∃ mark, exec (.bidbad target) s = .next { s with
      upc := if s.regs.pidr.val ≠ 0x49 ∨ s.regs.revr.val ≠ 0x00 then target else s.upc + 1, undefRead := mark }) ∧
    (∃ mark, exec (.bargbad target) s = .next { s with
      upc := if s.regs.arg.val.toNat ∈ [0, 90, 180, 270] then s.upc + 1 else target, undefRead := mark }) ∧
    decodeUop 0x660123 = .ok (.bidbad 0x0123) ∧ decodeUop 0x670008 = .ok (.bargbad 0x0008)

/-- R150, R151: `TSTAMP` records `now_ms`; `BTMO` branches when `(Now() - TSTART) mod 2^32 >= ARG`, unsigned, and writes
only `UPC`; a zero timeout has elapsed at once. That an unwritten register is read and the machine goes on: log entry 2. -/
def Obligations.LoopTiming : Prop :=
  ∀ (target : UAddr) (s : State),
    exec .tstamp s = .next { s with regs := { s.regs with tstart := Cell.of s.env.now }, upc := s.upc + 1 } ∧
    (∃ mark, exec (.btmo target) s = .next { s with
      upc := if s.regs.arg.val.toNat ≤ ((2 ^ 32 + s.env.now.toNat - s.regs.tstart.val.toNat) % 2 ^ 32) then target
        else s.upc + 1, undefRead := mark }) ∧
    (s.regs.arg.val = 0 → ∃ mark, exec (.btmo target) s = .next { s with upc := target, undefRead := mark }) ∧
    decodeUop 0xA00000 = .ok .tstamp ∧ decodeUop 0x650123 = .ok (.btmo 0x0123)

/-- R107: `XF1` by its closed form over every input; it writes only `C1` and `UPC`. That an unwritten `C1` is read and the
machine goes on: log entry 2. -/
def Obligations.Xf1ClosedForm : Prop :=
  ∀ s : State,
    let c := s.regs.c1.val
    let out : Byte := if c.toNat ≤ 14 then c + 14 else if c.toNat ≤ 28 then c + 25 else if c.toNat ≤ 52 then c + 11 else 63
    (∃ mark, exec .xf1 s = .next { s with
      regs := { s.regs with c1 := Cell.of out }, upc := s.upc + 1, undefRead := mark }) ∧
    out.toNat ≤ 63 ∧ ¬(29 ≤ out.toNat ∧ out.toNat ≤ 39) ∧ 14 ≤ out.toNat ∧ decodeUop 0x700000 = .ok .xf1

/-- R108: `XF2` is the unbounded product by 45 divided by 100, truncated; at most 114; it writes only `C2` and `UPC`. That
an unwritten `C2` is read and the machine goes on: log entry 2. -/
def Obligations.Xf2TruncatesTheProduct : Prop :=
  ∀ s : State, ∃ out : Byte,
    out.toNat = s.regs.c2.val.toNat * 45 / 100 ∧ out.toNat ≤ 114 ∧
    (∃ mark, exec .xf2 s = .next { s with
      regs := { s.regs with c2 := Cell.of out }, upc := s.upc + 1, undefRead := mark }) ∧
    decodeUop 0x800000 = .ok .xf2

/-- R140: `OMFLG` puts `swap_xy`, `invert_y`, `invert_x` (bits 2, 1, 0 of `ARG`) into bits 7, 6, 5 of `OM` and zeros below;
it writes only `OM` and `UPC`. That an unwritten `ARG` is read and the machine goes on: log entry 2. -/
def Obligations.OmflgBuildsTheMask : Prop :=
  ∀ s : State, ∃ om : Byte,
    om.getLsbD 7 = s.regs.arg.val.getLsbD 2 ∧ om.getLsbD 6 = s.regs.arg.val.getLsbD 1 ∧
    om.getLsbD 5 = s.regs.arg.val.getLsbD 0 ∧ om.toNat % 32 = 0 ∧
    (∃ mark, exec .omflg s = .next { s with
      regs := { s.regs with om := Cell.of om }, upc := s.upc + 1, undefRead := mark }) ∧
    decodeUop 0xB00000 = .ok .omflg

/-- R141: `OMROT` by the rotation table, `UFAULT` outside it; each mask is the one `OMFLG` builds from the row's flags. The
read of an unwritten `ARG` and `UFAULT` as a next state: log entries 2 and 10. -/
def Obligations.OmrotFollowsTheTable : Prop :=
  ∀ s : State,
    let writes (om : Byte) : Prop := ∃ mark, exec .omrot s = .next { s with
      regs := { s.regs with om := Cell.of om }, upc := s.upc + 1, undefRead := mark }
    (s.regs.arg.val = 0 → writes 0xE0) ∧ (s.regs.arg.val = 90 → writes 0x40) ∧
    (s.regs.arg.val = 180 → writes 0x80) ∧ (s.regs.arg.val = 270 → writes 0x20) ∧
    (s.regs.arg.val.toNat ∉ [0, 90, 180, 270] →
      ∃ mark, exec .omrot s = .next (afterUFault { s with undefRead := mark })) ∧
    flagMask 0b111 = 0xE0 ∧ flagMask 0b010 = 0x40 ∧ flagMask 0b100 = 0x80 ∧ flagMask 0b001 = 0x20 ∧
    decodeUop 0xC00000 = .ok .omrot

/-- R103 (its holding step by step is the model's choice, log entry 11): `WAIT` captures `T0`; `WAIT 0` completes at once;
otherwise it holds while `(Now() - T0) mod 2^32 < ms`, and then advances. A test of a held wait that holds changes nothing
but the mark, and that only where nothing has written `T0`: log entry 2, ReadBeforeWriteMarksTheRun. -/
def Obligations.WaitHoldsUntilElapsed : Prop :=
  ∀ (ms : BitVec 16) (s : State),
    (s.held = false → ms = 0 → exec (.wait ms) s = .next { s with
      regs := { s.regs with t0 := Cell.of s.env.now }, upc := s.upc + 1 }) ∧
    (s.held = false → ms ≠ 0 → exec (.wait ms) s = .next { s with
      regs := { s.regs with t0 := Cell.of s.env.now }, held := true }) ∧
    (s.held = true → (2 ^ 32 + s.env.now.toNat - s.regs.t0.val.toNat) % 2 ^ 32 < ms.toNat →
      ∃ mark, exec (.wait ms) s = .next { s with undefRead := mark }) ∧
    (s.held = true → ms.toNat ≤ (2 ^ 32 + s.env.now.toNat - s.regs.t0.val.toNat) % 2 ^ 32 →
      ∃ mark, exec (.wait ms) s = .next { s with held := false, upc := s.upc + 1, undefRead := mark })

/-- R103: a wait that begins at a step ends at the first later step at which the clock's advances since reach `ms`, and
nothing but the clock, `T0` and `UPC` has moved: no bus event, chip-select as it was. Step by step by the model's choice:
log entries 5 and 11. -/
def Obligations.WaitEndsAtTheFirstTestPastItsTime : Prop :=
  ∀ (ms : BitVec 16) (s : State) (first last : Word) (ds rest : List Word),
    s.frame = none → s.busy = true → s.held = false → s.env.host = [] →
    s.rom.read s.upc.toNat = some (UWord.ofImm 0x1 0 ms) →
    s.env.ticks = first :: (ds ++ last :: rest) →
    (ds.map BitVec.toNat).sum < ms.toNat → ms.toNat ≤ (ds.map BitVec.toNat).sum + last.toNat →
    (ds.map BitVec.toNat).sum + last.toNat < 2 ^ 32 →
    ∃ t, Host.Core.run Sys2Proof.core (ds.length + 2) s = .next t ∧
      t = { s with
        upc := s.upc + 1, rspValid := false, regs := { s.regs with t0 := Cell.of (s.env.now + first) },
        env := { s.env with now := s.env.now + first + BitVec.ofNat 32 ((ds.map BitVec.toNat).sum + last.toNat), ticks := rest } }

/-- R199: if the clock stops, a wait never ends: however many steps are made, `UPC` and `BUSY` stay and nothing is answered.
Step by step by the model's choice: log entries 5 and 11. -/
def Obligations.StoppedClockHangsAWait : Prop :=
  ∀ (ms : BitVec 16) (s : State) (n : Nat) (rest : List Word),
    ms ≠ 0 → s.frame = none → s.busy = true → s.held = false → s.env.host = [] →
    s.rom.read s.upc.toNat = some (UWord.ofImm 0x1 0 ms) →
    s.env.ticks = List.replicate n 0 ++ rest →
    ∃ t, Host.Core.run Sys2Proof.core n s = .next t ∧ t.upc = s.upc ∧ t.busy = true ∧ t.trace = s.trace ∧
      t.env.now = s.env.now

/-! ## Reading before writing -/

/-- R29, U2 (log entry 2): a micro-op that reads a working register nothing has written marks the run gone wrong and goes on;
one that reads only written registers, and every instruction that reads none, leaves the mark. -/
def Obligations.ReadBeforeWriteMarksTheRun : Prop :=
  ∀ (s : State) (target : UAddr),
    let marks (i : Instr) (written : Bool) : Prop :=
      ∃ t, exec i s = .next t ∧ t.undefRead = (s.undefRead || !written)
    marks (.bb7 target) s.regs.rb.written ∧ marks (.bnz target) s.regs.rb.written ∧
    marks (.bqok target) s.regs.fb.written ∧ marks (.bdrdy target) (s.regs.pb[0]).written ∧
    marks (.btmo target) (s.regs.tstart.written && s.regs.arg.written) ∧
    marks (.bidbad target) (s.regs.pidr.written && s.regs.revr.written) ∧
    marks (.bargbad target) s.regs.arg.written ∧ marks .xf1 s.regs.c1.written ∧ marks .xf2 s.regs.c2.written ∧
    marks .omflg s.regs.arg.written ∧ marks .omrot s.regs.arg.written ∧
    (∀ ms : BitVec 16, marks (.wait ms) (!s.held || s.regs.t0.written)) ∧
    (∀ (reg : Byte) (src : Src), marks (.wrr reg src) (reg.msb || !s.csN ||
      match src with | .c1 => s.regs.c1.written | .c2 => s.regs.c2.written | .om => s.regs.om.written)) ∧
    (∀ (result : ResultSel) (next : NextSel), marks (.endOp .ok result next) (!s.csN ||
      match result with
      | .none => true
      | .id => s.regs.pidr.written && s.regs.revr.written
      | .burst => s.regs.fb.written
      | .polled => (s.regs.pb[1]).written && (s.regs.pb[2]).written && (s.regs.pb[3]).written && (s.regs.pb[4]).written)) ∧
    (∀ (status : Status) (result : ResultSel) (next : NextSel), status ≠ .ok → marks (.endOp status result next) true) ∧
    (∀ (reg val : Byte) (dst : Dst), marks (.wr reg val) true ∧ marks (.rd reg dst) true ∧ marks (.burst reg) true) ∧
    marks .cslo true ∧ marks .cshi true ∧ marks (.jmp target) true ∧ marks .tstamp true ∧
    (∀ arg : Word, marks (.init arg) true ∧ marks (.getId arg) true ∧ marks (.setRotation arg) true ∧
      marks (.setOrientation arg) true ∧ marks (.getMotion arg) true ∧ marks (.getMotionSlow arg) true) ∧
    (∀ (reg : BitVec 7) (val : Byte), marks (.wFrame reg val) true ∧ marks (.rFrame reg) true ∧ marks .bFrame true)

/-! ## Reset -/

/-- R13 to R16, R25, R29, R191: what reset leaves in the state the spec gives a reset value, whatever `CALTAB` is. -/
def Obligations.ResetValues : Prop :=
  ∀ t : CalTab,
    let s := State.resetWith t
    s.life = .uninit ∧ s.upc = 0 ∧ s.busy = false ∧ s.csN = true ∧ s.rspStatus = 0 ∧ s.rspData = 0 ∧
    s.rspValid = false ∧ s.bus.sclk = idleLevel Config.spiMode ∧ s.trace = [] ∧
    (s.regs.rb.written || s.regs.c1.written || s.regs.c2.written || s.regs.pidr.written || s.regs.revr.written ||
      s.regs.arg.written || s.regs.om.written || s.regs.t0.written || s.regs.tstart.written || s.regs.fb.written ||
      s.regs.pb.any (·.written)) = false ∧
    State.reset = State.resetWith Config.calTab

/-- R190, R192: `rst_n` low puts every register back to its reset value in any state, busy or not, with no response; if
chip-select was low the trace gains `CSH` and nothing else; the ROM and the mark on the run stay. Inside a transfer the
frame is cut after whole bytes of it, whichever frame it is, and `CSH` is stamped by a draw of the clock of its own after
the last of them; a `WRR` cut so has read its source (R91). The values of the registers and lines R29 leaves unspecified,
where a transfer is cut, the mark, the draw and what a reset leaves alone are the model's: log entries 2, 3, 5, 16 and 21. -/
def Obligations.ResetAborts : Prop :=
  (∀ (s : State) (cut : Option Nat) (rest : List HostInput),
    s.env.host = (match cut with | none => .reset | some n => .resetDuring n) :: rest →
    ∃ t, step s = .next t ∧
      t.life = .uninit ∧ t.upc = 0 ∧ t.busy = false ∧ t.csN = true ∧ t.rspStatus = 0 ∧ t.rspData = 0 ∧
      t.rspValid = false ∧ t.regs = Regs.reset ∧ t.held = false ∧ t.bus = Bus.reset ∧ t.frame = none ∧
      t.rom = s.rom ∧ t.env.host = rest ∧
      (cut = none ∨ pendingTransfer s = none →
        t.undefRead = s.undefRead ∧ Adds s t (if s.csN then [] else [.csh])) ∧
      (∀ n tx, cut = some n → pendingTransfer s = some tx →
        t.undefRead = (s.undefRead || !pendingWritten s) ∧
        (∃ rx, Answered s (min n tx.length) rx ∧ Adds s t (window (tx.take n) rx)) ∧
        t.trace.getLast? = some { ev := .csh, time := t.env.now } ∧
        (∀ (first last : Word) (ds later : List Word), s.env.ticks = first :: (ds ++ last :: later) →
          ds.length = min n tx.length → t.env.now = ds.foldl (· + ·) (s.env.now + first) + last))) ∧
  (∀ (s : State) (w : UWord) (i : Instr), s.frame = none → s.busy = true → s.csN = true →
    s.rom.read s.upc.toNat = some w → decodeUop w = .ok i →
    pendingTransfer s = (match i with
      | .wr reg val => some [reg ||| 0x80, val]
      | .wrr reg .c1 => some [reg ||| 0x80, s.regs.c1.val]
      | .wrr reg .c2 => some [reg ||| 0x80, s.regs.c2.val]
      | .wrr reg .om => some [reg ||| 0x80, s.regs.om.val]
      | .rd reg _ => some [reg, 0x00]
      | .burst reg => some [reg, 0, 0, 0, 0, 0, 0, 0, 0, 0, 0, 0, 0]
      | _ => none) ∧
    pendingWritten s = (match i with
      | .wrr _ .c1 => s.regs.c1.written
      | .wrr _ .c2 => s.regs.c2.written
      | .wrr _ .om => s.regs.om.written
      | _ => true)) ∧
  (∀ s : State, s.csN = false ∨ (s.frame = none ∧ s.busy = false) → pendingTransfer s = none)

/-! ## Whole commands on the reference ROM -/

/-- R135, R19: GET_ID answers the held pair in two steps, with no bus event and no change of `STATE` or a register but `ARG`.
In `READY` with an identity register that nothing has written, which no run reaches, the answer rests on log entry 2. -/
def Obligations.GetIdAnswersTheHeldPair : Prop :=
  ∀ (tab : CalTab) (arg : Word) (s : State), Presents tab 1 arg s → s.life = .ready →
    ∃ t, Host.Core.run Sys2Proof.core 2 s = .next t ∧
      Adds s t [.cmd 1 arg, .rsp 0 (0x0000#16 ++ s.regs.revr.val ++ s.regs.pidr.val)] ∧
      t.life = .ready ∧ t.busy = false ∧ t.csN = true ∧ t.regs = { s.regs with arg := Cell.of arg } ∧
      (s.regs.pidr.val = 0x49 → s.regs.revr.val = 0x00 → t.rspData = 0x00000049)

/-- R143: SET_ORIENTATION puts one W frame `[0xDB, OM]` on the bus and answers `(OK, 0)`, whatever its argument; outside `READY`
it is answered `BAD_STATE`. -/
def Obligations.SetOrientationWritesTheMask : Prop :=
  ∀ (tab : CalTab) (arg : Word) (s : State), Presents tab 3 arg s →
    (s.life = .ready →
      ∃ rx t, Host.Core.run Sys2Proof.core 4 s = .next t ∧ rx.length = 2 ∧
        Adds s t ([.cmd 3 arg] ++ window [0xDB, arg.extractLsb' 0 3 ++ 0#5] rx ++ [.rsp 0 0]) ∧
        t.life = .ready ∧ t.busy = false ∧ t.csN = true ∧ t.rspStatus = 0 ∧ t.rspData = 0) ∧
    (s.life ≠ .ready → ∃ t, step s = .next t ∧ Adds s t [.cmd 3 arg, .rsp 4 0] ∧ t.life = s.life ∧ t.busy = false)

/-- R144, R145: SET_ROTATION of 0, 90, 180, 270 puts one W frame with the row's mask on the bus and answers `(OK, 0)`; of any
other value it answers `INVALID_ARG` with no bus event and `OM` not written; outside `READY`, `BAD_STATE`. -/
def Obligations.SetRotationWritesTheMaskOrRefuses : Prop :=
  ∀ (tab : CalTab) (deg : Word) (s : State), Presents tab 2 deg s →
    (∀ mask : Byte, s.life = .ready → (deg.toNat, mask) ∈ [(0, 0xE0#8), (90, 0x40#8), (180, 0x80#8), (270, 0x20#8)] →
      ∃ rx t, Host.Core.run Sys2Proof.core 5 s = .next t ∧ rx.length = 2 ∧
        Adds s t ([.cmd 2 deg] ++ window [0xDB, mask] rx ++ [.rsp 0 0]) ∧
        t.life = .ready ∧ t.busy = false ∧ t.csN = true) ∧
    (s.life = .ready → deg.toNat ∉ [0, 90, 180, 270] →
      ∃ t, Host.Core.run Sys2Proof.core 3 s = .next t ∧ Adds s t [.cmd 2 deg, .rsp 3 0] ∧
        t.life = .ready ∧ t.busy = false ∧ t.csN = true ∧ t.regs.om = s.regs.om) ∧
    (s.life ≠ .ready → ∃ t, step s = .next t ∧ Adds s t [.cmd 2 deg, .rsp 4 0] ∧ t.life = s.life ∧ t.busy = false)

/-- R154, R151: the first round of GET_MOTION. With the clock advancing by `d2` between `TSTAMP` and the test: if that is at
least the timeout, `TIMEOUT` with no bus event; else one B frame, and if its quality is above 0x19 the response carries that
frame's `dy` and `dx` and no wait follows. The clock's draws are the model's: log entry 5. -/
def Obligations.GetMotionFirstRound : Prop :=
  ∀ (tab : CalTab) (timeout d0 d1 d2 : Word) (later : List Word) (s : State), Presents tab 4 timeout s → s.life = .ready →
    s.env.ticks = d0 :: d1 :: d2 :: later →
    (timeout.toNat ≤ d2.toNat →
      ∃ t, Host.Core.run Sys2Proof.core 4 s = .next t ∧ Adds s t [.cmd 4 timeout, .rsp 2 0] ∧
        t.life = .ready ∧ t.busy = false ∧ t.regs.fb = s.regs.fb) ∧
    (d2.toNat < timeout.toNat → ∀ (frame : Vector Byte 13) (rest : List Byte), s.env.chip = frame.toList ++ rest →
      0x19 < (frame[7]).toNat →
      ∃ t, Host.Core.run Sys2Proof.core 6 s = .next t ∧
        Adds s t ([.cmd 4 timeout] ++ window [0x16, 0, 0, 0, 0, 0, 0, 0, 0, 0, 0, 0, 0] frame.toList ++
          [.rsp 0 (frame[6] ++ frame[5] ++ frame[4] ++ frame[3])]) ∧
        t.life = .ready ∧ t.busy = false ∧ t.csN = true ∧ t.regs.fb = Cell.of frame)

/-- R162, R164: the first round of GET_MOTION_SLOW. Five R frames to 0x02 .. 0x06, all made before the gate is tested; if
the data-ready bit is set the response carries the round's `dy` and `dx`; if the timeout has elapsed, `TIMEOUT` and no
frame. The clock's draws are the model's: log entry 5. -/
def Obligations.GetMotionSlowFirstRound : Prop :=
  ∀ (tab : CalTab) (timeout d0 d1 d2 : Word) (later : List Word) (s : State), Presents tab 5 timeout s → s.life = .ready →
    s.env.ticks = d0 :: d1 :: d2 :: later →
    (timeout.toNat ≤ d2.toNat →
      ∃ t, Host.Core.run Sys2Proof.core 4 s = .next t ∧ Adds s t [.cmd 5 timeout, .rsp 2 0] ∧
        t.life = .ready ∧ t.busy = false ∧ t.regs.pb = s.regs.pb) ∧
    (d2.toNat < timeout.toNat → ∀ (e0 v0 e1 v1 e2 v2 e3 v3 e4 v4 : Byte) (rest : List Byte),
      s.env.chip = [e0, v0, e1, v1, e2, v2, e3, v3, e4, v4] ++ rest → 0x80 ≤ v0.toNat →
      ∃ t, Host.Core.run Sys2Proof.core 10 s = .next t ∧
        Adds s t ([.cmd 5 timeout] ++ window [0x02, 0] [e0, v0] ++ window [0x03, 0] [e1, v1] ++ window [0x04, 0] [e2, v2] ++
          window [0x05, 0] [e3, v3] ++ window [0x06, 0] [e4, v4] ++ [.rsp 0 (v4 ++ v3 ++ v2 ++ v1)]) ∧
        t.life = .ready ∧ t.busy = false ∧ t.csN = true)

/-- R133: INIT begins with the reset pulse. While the clock's advances since the wait began are below 50 ms, chip-select is
low and the trace has gained `CMD` and `CSL` only; once they reach 50, `CSH` follows, with no `BYTE` between. The clock's draws
and the held wait are the model's: log entries 5 and 11. -/
def Obligations.InitBeginsWithTheResetPulse : Prop :=
  ∀ (tab : CalTab) (arg d0 d1 d2 : Word) (ds later : List Word) (s : State), Presents tab 0 arg s → s.life = .uninit →
    s.env.ticks = d0 :: d1 :: d2 :: (ds ++ later) →
    let waited := (ds.map BitVec.toNat).sum
    let begun : Trace := [{ ev := .cmd 0 arg, time := s.env.now + d0 }, { ev := .csl, time := s.env.now + d0 + d1 }]
    waited < 50 →
    (∃ t, Host.Core.run Sys2Proof.core (ds.length + 3) s = .next t ∧ t.trace = s.trace ++ begun ∧
      t.csN = false ∧ t.busy = true ∧ t.life = .uninit ∧ t.upc = 0x001E) ∧
    (∀ (last d4 : Word) (rest : List Word), later = last :: d4 :: rest → 50 ≤ waited + last.toNat →
      waited + last.toNat < 2 ^ 32 →
      ∃ t, Host.Core.run Sys2Proof.core (ds.length + 5) s = .next t ∧
        t.trace = s.trace ++ begun ++
          [{ ev := .csh, time := s.env.now + d0 + d1 + d2 + BitVec.ofNat 32 (waited + last.toNat) + d4 }] ∧
        t.csN = true ∧ t.busy = true ∧ t.life = .uninit ∧ t.upc = 0x0020)

/-- R125: a run of `WR` words in the ROM is replayed verbatim: each entry becomes one W frame, in order, none skipped, merged or
repeated, and nothing but the bus, `UPC` and the response pulse moves. -/
def Obligations.CalibrationTablesAreReplayed : Prop :=
  ∀ (table : List CalEntry) (n : Nat) (s : State),
    (∀ e ∈ table, e.reg.msb = false) →
    (∀ (j : Nat) (e : CalEntry), table[j]? = some e →
      s.rom.read (n + j) = some (BitVec.ofNat 24 (e.reg.toNat * 256 + e.val.toNat))) →
    n + table.length < 65536 → s.frame = none → s.busy = true → s.csN = true → s.env.host = [] → s.upc.toNat = n →
    ∃ (answers : List (Byte × Byte)) (t : State), answers.length = table.length ∧
      Host.Core.run Sys2Proof.core table.length s = .next t ∧ Adds s t (replayEvents table answers) ∧
      OnlyBusMoved { s with upc := BitVec.ofNat 16 (n + table.length), rspValid := t.rspValid } t

/-- R122: calibration branch 1. After `[0x67, 0x00]` is answered with `v`, exactly one `[0xC8, _]` follows: 0x04 when bit 7 of `v` is
set, else 0x02; both arms meet at `P1 + 5`. -/
def Obligations.CalibrationBranchOne : Prop :=
  ∀ (tab : CalTab) (e v : Byte) (rest : List Byte) (s : State), CalTab.valid tab = true → RunsAt tab (CalTab.p1 tab) s →
    s.env.chip = e :: v :: rest →
    ∃ (rx : List Byte) (t : State), rx.length = 2 ∧
      Host.Core.run Sys2Proof.core (if 0x80 ≤ v.toNat then 3 else 4) s = .next t ∧
      Adds s t (window [0x67, 0x00] [e, v] ++ window [0xC8, if 0x80 ≤ v.toNat then 0x04 else 0x02] rx) ∧
      t.upc.toNat = CalTab.p1 tab + 5 ∧ t.busy = true ∧ t.csN = true ∧ t.regs = { s.regs with rb := Cell.of v } ∧
      t.undefRead = s.undefRead

/-- R123: calibration branch 2. When `[0x73, 0x00]` is answered non-zero nothing more happens in it; when zero, `C1` and `C2` are read,
transformed, `CAL_C` is replayed and the two results are written back. -/
def Obligations.CalibrationBranchTwo : Prop :=
  ∀ (tab : CalTab) (e v : Byte) (rest : List Byte) (s : State), CalTab.valid tab = true → RunsAt tab (CalTab.p2 tab) s →
    s.env.chip = e :: v :: rest →
    (v ≠ 0 → ∃ t, Host.Core.run Sys2Proof.core 2 s = .next t ∧ Adds s t (window [0x73, 0x00] [e, v]) ∧
      t.upc.toNat = CalTab.p3 tab ∧ t.busy = true ∧ t.regs = { s.regs with rb := Cell.of v }) ∧
    (v = 0 → ∀ (e1 a e2 b : Byte) (rest' : List Byte), rest = e1 :: a :: e2 :: b :: rest' →
      ∃ (answers : List (Byte × Byte)) (r1 r2 : List Byte) (t : State),
        answers.length = tab.c.length ∧ r1.length = 2 ∧ r2.length = 2 ∧
        Host.Core.run Sys2Proof.core (tab.c.length + 8) s = .next t ∧
        Adds s t (window [0x73, 0x00] [e, 0] ++ window [0x70, 0x00] [e1, a] ++ window [0x71, 0x00] [e2, b] ++
          replayEvents tab.c answers ++ window [0xF0, xf1 a] r1 ++ window [0xF1, xf2 b] r2) ∧
        t.upc.toNat = CalTab.p3 tab ∧ t.busy = true ∧
        t.regs = { s.regs with rb := Cell.of b, c1 := Cell.of (xf1 a), c2 := Cell.of (xf2 b) })

/-- R131, R132, R130: INIT ends by the identity check: two R frames at 0x00 and 0x01, then `(OK, 0)` and `READY` when they give
(0x49, 0x00), else `(INIT_ERROR, 0)` and `FAILED`, the pair kept in `PIDR`, `REVR`. -/
def Obligations.InitEndsByTheIdentityCheck : Prop :=
  ∀ (tab : CalTab) (e0 product e1 revision : Byte) (rest : List Byte) (s : State), CalTab.valid tab = true →
    RunsAt tab (CalTab.p4 tab) s → s.env.chip = e0 :: product :: e1 :: revision :: rest →
    let good := product = 0x49 ∧ revision = 0x00
    ∃ t, Host.Core.run Sys2Proof.core 4 s = .next t ∧
      Adds s t (window [0x00, 0x00] [e0, product] ++ window [0x01, 0x00] [e1, revision] ++
        [.rsp (if good then 0 else 1) 0]) ∧
      t.life = (if good then .ready else .failed) ∧ t.busy = false ∧ t.csN = true ∧
      t.regs = { s.regs with rb := Cell.of revision, pidr := Cell.of product, revr := Cell.of revision } ∧
      t.undefRead = s.undefRead

/-! ## Invariants and whole-machine rules -/

/-- R16, R80, R81: chip-select discipline holds after reset. -/
def Obligations.ResetIsDisciplined : Prop := ∀ t : CalTab, Disciplined (State.resetWith t)

/-- R16, R80, R81: every step, on any micro-ROM, keeps chip-select discipline: `CS_N = 1` and no wait in progress whenever `BUSY = 0`;
`CSL` and `CSH` alternate, every `BYTE` stands inside a window, every `CMD` and `RSP` outside one. -/
def Obligations.StepKeepsChipSelectDiscipline : Prop :=
  ∀ s t : State, Disciplined s → step s = .next t → Disciplined t

/-- R12: from a disciplined state, a step without reset keeps the balance of commands and responses: one more command is open
exactly while `BUSY = 1`. -/
def Obligations.CommandsAndResponsesStayInBalance : Prop :=
  ∀ s t : State, Disciplined s → resetNext s = false → step s = .next t →
    cmdCount (events t.trace) + rspCount (events s.trace) + (if s.busy then 1 else 0) =
      cmdCount (events s.trace) + rspCount (events t.trace) + (if t.busy then 1 else 0)

/-- R8, R43: no step writes the micro-ROM, and no step takes back an event of the trace. -/
def Obligations.NoStepWritesTheRomOrThePast : Prop :=
  ∀ s t : State, step s = .next t → t.rom = s.rom ∧ ∃ evs, Adds s t evs

/-- R13: `STATE` changes only in a step that gives a response, or in a reset. -/
def Obligations.StateChangesOnlyWithAResponse : Prop :=
  ∀ s t : State, step s = .next t → t.life ≠ s.life → resetNext s = true ∨ t.rspValid = true

/-- R19: the identity pair is written only by `RD` with destination `PIDR` or `REVR`, or by reset. -/
def Obligations.IdentityWrittenOnlyByRd : Prop :=
  ∀ s t : State, step s = .next t → t.regs.pidr ≠ s.regs.pidr ∨ t.regs.revr ≠ s.regs.revr →
    resetNext s = true ∨ (s.busy = true ∧ ∃ w reg dst, s.rom.read s.upc.toNat = some w ∧ decodeUop w = .ok (.rd reg dst) ∧
      (dst = .pidr ∨ dst = .revr))

/-- R112, R120, R5: the reference invariant holds after reset, for every `CALTAB`; the block's own meets R120, so its reset
state is one that StepKeepsTheReferenceInvariant speaks of. -/
def Obligations.ResetMeetsTheReferenceInvariant : Prop :=
  (∀ t : CalTab, Reference t (State.resetWith t)) ∧ CalTab.valid Config.calTab = true ∧ Reference Config.calTab State.reset

/-- R30, R111, R81, R19, R182: on the reference ROM of any `CALTAB` that meets R120, with any chip, clock and host, every
step gives a next state and keeps the reference invariant: no `UFAULT`, no read before a write, chip-select low only in
INIT's pulse, `READY` only with the identity (0x49, 0x00), `UPC` inside the program. `READY` with that identity is the
spec's own inference from R13 and R131. -/
def Obligations.StepKeepsTheReferenceInvariant : Prop :=
  ∀ (tab : CalTab) (s : State), CalTab.valid tab = true → Reference tab s → ∃ t, step s = .next t ∧ Reference tab t

/-- R136, R182: on the reference ROM a step without reset never leaves `READY` or `FAILED`. -/
def Obligations.OnlyResetLeavesReadyAndFailed : Prop :=
  ∀ (tab : CalTab) (s t : State), CalTab.valid tab = true → Reference tab s → resetNext s = false → step s = .next t →
    (s.life = .ready → t.life = .ready) ∧ (s.life = .failed → t.life = .failed)

/-- R60: on the reference ROM the bytes one step sends are none or one whole W, R or B frame; a reset may cut the frame short. -/
def Obligations.OnlyLegalFramesAreSent : Prop :=
  ∀ (tab : CalTab) (s t : State), CalTab.valid tab = true → Reference tab s → step s = .next t →
    ∃ evs, Adds s t evs ∧
      (resetNext s = false → sentBytes evs = [] ∨ LegalFrame (sentBytes evs)) ∧
      (resetNext s = true → ∃ tx, LegalFrame tx ∧ sentBytes evs <+: tx)

/-! ## Every round of the two polling loops, and the clock -/

/-- R154, R151, R152: a round of GET_MOTION, from its loop head whatever round it is. With the timeout elapsed, `TIMEOUT` and
no bus event. Else one B frame; with quality above 0x19 the response carries that frame's `dy`, `dx`; with quality at most
0x19 there is no response and no bus event while the clock's advances since the wait began are below 10 ms, and once they
reach it the block is back at the loop head, nothing of the frame in the response registers. The clock's draws and the held
wait are the model's: log entries 5 and 11; that an unwritten `TSTART` or `ARG` is read and the machine goes on: log entry 2. -/
def Obligations.GetMotionEveryRound : Prop :=
  ∀ (tab : CalTab) (d : Word) (ticks : List Word) (s : State), RunsAt tab 0x000A s → s.env.ticks = d :: ticks →
    let elapsed := (s.env.now + d - s.regs.tstart.val).toNat
    (s.regs.arg.val.toNat ≤ elapsed →
      ∃ t, Host.Core.run Sys2Proof.core 2 s = .next t ∧ Adds s t [.rsp 2 0] ∧
        t.life = s.life ∧ t.busy = false ∧ t.csN = true ∧ t.regs = s.regs) ∧
    (elapsed < s.regs.arg.val.toNat → ∀ (frame : Vector Byte 13) (rest : List Byte), s.env.chip = frame.toList ++ rest →
      let sampled := window [0x16, 0, 0, 0, 0, 0, 0, 0, 0, 0, 0, 0, 0] frame.toList
      (0x19 < (frame[7]).toNat →
        ∃ t, Host.Core.run Sys2Proof.core 4 s = .next t ∧
          Adds s t (sampled ++ [.rsp 0 (frame[6] ++ frame[5] ++ frame[4] ++ frame[3])]) ∧
          t.life = s.life ∧ t.busy = false ∧ t.csN = true ∧ t.regs = { s.regs with fb := Cell.of frame }) ∧
      ((frame[7]).toNat ≤ 0x19 → ∀ (before ds later : List Word), ticks = before ++ (ds ++ later) → before.length = 17 →
        let waited := (ds.map BitVec.toNat).sum
        waited < 10 →
        (∃ t, Host.Core.run Sys2Proof.core (ds.length + 4) s = .next t ∧ Adds s t sampled ∧
          t.upc = 0x000D ∧ t.busy = true ∧ t.csN = true ∧ t.rspValid = false) ∧
        (∀ (last next : Word) (more : List Word), later = last :: next :: more → 10 ≤ waited + last.toNat →
          waited + last.toNat < 2 ^ 32 →
          ∃ t, Host.Core.run Sys2Proof.core (ds.length + 6) s = .next t ∧ RunsAt tab 0x000A t ∧ Adds s t sampled ∧
            t.life = s.life ∧ t.rspStatus = s.rspStatus ∧ t.rspData = s.rspData ∧ t.rspValid = false ∧
            t.env.ticks = more ∧ t.env.chip = rest ∧
            t.regs = { s.regs with
              fb := Cell.of frame, t0 := Cell.of (before.foldl (· + ·) (s.env.now + d)) })))

/-- R162, R151, R160, R164: a round of GET_MOTION_SLOW, from its loop head whatever round it is. With the timeout elapsed,
`TIMEOUT` and no bus event. Else five R frames, all made before the gate is tested; with the data-ready bit set the response
carries the round's `dy`, `dx`; with it clear there is no response and no bus event while the clock's advances since the wait
began are below 1 ms, and once they reach it the block is back at the loop head, nothing of the round in the response
registers. The model's choices: as for GetMotionEveryRound. -/
def Obligations.GetMotionSlowEveryRound : Prop :=
  ∀ (tab : CalTab) (d : Word) (ticks : List Word) (s : State), RunsAt tab 0x0012 s → s.env.ticks = d :: ticks →
    let elapsed := (s.env.now + d - s.regs.tstart.val).toNat
    (s.regs.arg.val.toNat ≤ elapsed →
      ∃ t, Host.Core.run Sys2Proof.core 2 s = .next t ∧ Adds s t [.rsp 2 0] ∧
        t.life = s.life ∧ t.busy = false ∧ t.csN = true ∧ t.regs = s.regs) ∧
    (elapsed < s.regs.arg.val.toNat → ∀ (e0 v0 e1 v1 e2 v2 e3 v3 e4 v4 : Byte) (rest : List Byte),
      s.env.chip = [e0, v0, e1, v1, e2, v2, e3, v3, e4, v4] ++ rest →
      let sampled := window [0x02, 0] [e0, v0] ++ window [0x03, 0] [e1, v1] ++ window [0x04, 0] [e2, v2] ++
        window [0x05, 0] [e3, v3] ++ window [0x06, 0] [e4, v4]
      let frame := #v[Cell.of v0, Cell.of v1, Cell.of v2, Cell.of v3, Cell.of v4]
      (0x80 ≤ v0.toNat →
        ∃ t, Host.Core.run Sys2Proof.core 8 s = .next t ∧ Adds s t (sampled ++ [.rsp 0 (v4 ++ v3 ++ v2 ++ v1)]) ∧
          t.life = s.life ∧ t.busy = false ∧ t.csN = true ∧ t.regs = { s.regs with rb := Cell.of v4, pb := frame }) ∧
      (v0.toNat < 0x80 → ∀ (before ds later : List Word), ticks = before ++ (ds ++ later) → before.length = 22 →
        let waited := (ds.map BitVec.toNat).sum
        waited < 1 →
        (∃ t, Host.Core.run Sys2Proof.core (ds.length + 8) s = .next t ∧ Adds s t sampled ∧
          t.upc = 0x0019 ∧ t.busy = true ∧ t.csN = true ∧ t.rspValid = false) ∧
        (∀ (last next : Word) (more : List Word), later = last :: next :: more → 1 ≤ waited + last.toNat →
          ∃ t, Host.Core.run Sys2Proof.core (ds.length + 10) s = .next t ∧ RunsAt tab 0x0012 t ∧ Adds s t sampled ∧
            t.life = s.life ∧ t.rspStatus = s.rspStatus ∧ t.rspData = s.rspData ∧ t.rspValid = false ∧
            t.env.ticks = more ∧ t.env.chip = rest ∧
            t.regs = { s.regs with
              rb := Cell.of v4, pb := frame, t0 := Cell.of (before.foldl (· + ·) (s.env.now + d)) })))

/-- R103, R199: with a clock that advances by `ms` (which R199's fairness premise `Fair` gives for every `ms`, log entry 23) and
does not step over the range of `now_ms`, a wait ends, whether its advances are given or free, and nothing but the clock,
`T0` and `UPC` has moved. Step by step by the model's choice: log entries 5 and 11. -/
def Obligations.AdvancingClockEndsAWait : Prop :=
  ∀ (ms : BitVec 16) (s : State) (n : Nat),
    s.frame = none → s.busy = true → s.held = false → s.env.host = [] →
    s.rom.read s.upc.toNat = some (UWord.ofImm 0x1 0 ms) →
    ms.toNat ≤ advanced s.env.tick n → advanced s.env.tick n < 2 ^ 32 →
    ∃ (k : Nat) (t : State), k ≤ n + 1 ∧ Host.Core.run Sys2Proof.core k s = .next t ∧
      t = { s with
        upc := s.upc + 1, rspValid := false, regs := { s.regs with t0 := Cell.of s.env.tick.now }, env := t.env } ∧
      t.env.host = [] ∧ t.env.chip = s.env.chip
end

