-- ==== Sys2Proof/Laws/Clock.lean ====
section
/-! SUPPORT. The fairness premise on the clock (R199): what it gives a wait. -/

namespace Sys2Proof.Safety

open Sys2Proof.Machine

/-- The environment after `n` draws of the clock. -/
def drawn (e : Env) : Nat → Env
  | 0 => e
  | n + 1 => (drawn e n).tick

theorem drawn_tick (e : Env) (n : Nat) : drawn e.tick n = (drawn e n).tick := by
  induction n with
  | zero => rfl
  | succ n ih => simp [drawn, ih]

theorem advanced_succ (e : Env) (n : Nat) :
    advanced e (n + 1) = advanced e n + ((drawn e n).tick.now - (drawn e n).now).toNat := by
  induction n generalizing e with
  | zero => simp [advanced, drawn]
  | succ n ih =>
    rw [show advanced e (n + 1 + 1) = (e.tick.now - e.now).toNat + advanced e.tick (n + 1) from rfl, ih e.tick,
      show advanced e (n + 1) = (e.tick.now - e.now).toNat + advanced e.tick n from rfl, drawn_tick]
    simp only [drawn]
    omega

theorem advanced_mono (e : Env) (n k : Nat) : advanced e n ≤ advanced e (n + k) := by
  induction k with
  | zero => exact Nat.le_refl _
  | succ k ih => rw [← Nat.add_assoc, advanced_succ]; omega

/-- `now_ms` after `n` draws is the advance modulo 2^32 (R11). -/
theorem drawn_now (e : Env) (n : Nat) : (drawn e n).now = e.now + BitVec.ofNat 32 (advanced e n) := by
  induction n with
  | zero => simp [drawn, advanced]
  | succ n ih =>
    rw [advanced_succ, BitVec.ofNat_add, ← BitVec.add_assoc, ← ih, BitVec.ofNat_toNat, BitVec.setWidth_eq, drawn,
      BitVec.add_comm, BitVec.sub_add_cancel]

/-- Under a fair clock no draw of which is so long as to step over the range, the advance passes `m` without a wrap: the
premise of AdvancingClockEndsAWait. -/
theorem fair_advances (e : Env) (m : Nat) (fair : Fair e)
    (short : ∀ n, m + ((drawn e n).tick.now - (drawn e n).now).toNat < 2 ^ 32) :
    ∃ n, m ≤ advanced e n ∧ advanced e n < 2 ^ 32 := by
  obtain ⟨n, hn⟩ := fair m
  induction n with
  | zero => exact ⟨0, by omega, by simp [advanced]⟩
  | succ n ih =>
    by_cases h : m < advanced e n
    · exact ih h
    · exact ⟨n + 1, by omega, by have := short n; rw [advanced_succ]; omega⟩

end Sys2Proof.Safety
end

