-- ==== Sys2Proof/Laws/Decode.lean ====
section
/-! SUPPORT. The fields of a word built from fields, and the selectors' round trips. -/

namespace Sys2Proof

theorem toNat_append_add {m n : Nat} (u : BitVec m) (v : BitVec n) : (u ++ v).toNat = u.toNat * 2 ^ n + v.toNat := by
  rw [BitVec.toNat_append, ← Nat.shiftLeft_add_eq_or_of_lt v.isLt, Nat.shiftLeft_eq]

theorem UWord.toNat_ofFields (op x : BitVec 4) (a b : Byte) :
    (UWord.ofFields op x a b).toNat = ((op.toNat * 16 + x.toNat) * 256 + a.toNat) * 256 + b.toNat := by
  refine (toNat_append_add (op ++ x ++ a) b).trans ?_
  rw [toNat_append_add, toNat_append_add]
  norm_num

theorem UWord.toNat_ofImm (op x : BitVec 4) (imm : BitVec 16) :
    (UWord.ofImm op x imm).toNat = (op.toNat * 16 + x.toNat) * 65536 + imm.toNat := by
  refine (toNat_append_add (op ++ x) imm).trans ?_
  rw [toNat_append_add]
  norm_num

theorem UWord.toNat_op (w : UWord) : w.op.toNat = w.toNat / 1048576 := by
  have := w.isLt
  simp only [UWord.op, BitVec.extractLsb'_toNat, Nat.shiftRight_eq_div_pow]
  omega

theorem UWord.toNat_x (w : UWord) : w.x.toNat = w.toNat / 65536 % 16 := by
  simp only [UWord.x, BitVec.extractLsb'_toNat, Nat.shiftRight_eq_div_pow]

theorem UWord.toNat_a (w : UWord) : w.a.toNat = w.toNat / 256 % 256 := by
  simp only [UWord.a, BitVec.extractLsb'_toNat, Nat.shiftRight_eq_div_pow]

theorem UWord.toNat_b (w : UWord) : w.b.toNat = w.toNat % 256 := by
  simp only [UWord.b, BitVec.extractLsb'_toNat, Nat.shiftRight_zero]

theorem UWord.toNat_ab (w : UWord) : w.ab.toNat = w.toNat % 65536 := by
  simp only [UWord.ab, BitVec.extractLsb'_toNat, Nat.shiftRight_zero]

section Fields
variable (op x : BitVec 4) (a b : Byte) (imm : BitVec 16)

@[simp] theorem UWord.op_ofFields : (UWord.ofFields op x a b).op = op := by
  apply BitVec.eq_of_toNat_eq
  have := op.isLt; have := x.isLt; have := a.isLt; have := b.isLt
  rw [UWord.toNat_op, UWord.toNat_ofFields]
  omega

@[simp] theorem UWord.x_ofFields : (UWord.ofFields op x a b).x = x := by
  apply BitVec.eq_of_toNat_eq
  have := op.isLt; have := x.isLt; have := a.isLt; have := b.isLt
  rw [UWord.toNat_x, UWord.toNat_ofFields]
  omega

@[simp] theorem UWord.a_ofFields : (UWord.ofFields op x a b).a = a := by
  apply BitVec.eq_of_toNat_eq
  have := op.isLt; have := x.isLt; have := a.isLt; have := b.isLt
  rw [UWord.toNat_a, UWord.toNat_ofFields]
  omega

@[simp] theorem UWord.b_ofFields : (UWord.ofFields op x a b).b = b := by
  apply BitVec.eq_of_toNat_eq
  have := op.isLt; have := x.isLt; have := a.isLt; have := b.isLt
  rw [UWord.toNat_b, UWord.toNat_ofFields]
  omega

@[simp] theorem UWord.op_ofImm : (UWord.ofImm op x imm).op = op := by
  apply BitVec.eq_of_toNat_eq
  have := op.isLt; have := x.isLt; have := imm.isLt
  rw [UWord.toNat_op, UWord.toNat_ofImm]
  omega

@[simp] theorem UWord.x_ofImm : (UWord.ofImm op x imm).x = x := by
  apply BitVec.eq_of_toNat_eq
  have := op.isLt; have := x.isLt; have := imm.isLt
  rw [UWord.toNat_x, UWord.toNat_ofImm]
  omega

@[simp] theorem UWord.ab_ofImm : (UWord.ofImm op x imm).ab = imm := by
  apply BitVec.eq_of_toNat_eq
  have := op.isLt; have := x.isLt; have := imm.isLt
  rw [UWord.toNat_ab, UWord.toNat_ofImm]
  omega

end Fields

/-- A word is its fields. -/
theorem UWord.ofFields_fields (w : UWord) : UWord.ofFields w.op w.x w.a w.b = w := by
  apply BitVec.eq_of_toNat_eq
  have := w.isLt
  rw [UWord.toNat_ofFields, UWord.toNat_op, UWord.toNat_x, UWord.toNat_a, UWord.toNat_b]
  omega

theorem UWord.ofImm_fields (w : UWord) : UWord.ofImm w.op w.x w.ab = w := by
  apply BitVec.eq_of_toNat_eq
  have := w.isLt
  rw [UWord.toNat_ofImm, UWord.toNat_op, UWord.toNat_x, UWord.toNat_ab]
  omega

/-! ## Selectors -/

theorem Dst.ofCode_code (d : Dst) : Dst.ofCode d.code = .ok d := by
  cases d with
  | pb k => revert k; decide
  | _ => rfl

theorem Dst.code_ofCode (x : BitVec 4) (d : Dst) (h : Dst.ofCode x = .ok d) : d.code = x := by
  have key : ∀ x : BitVec 4, ∀ d, Dst.ofCode x = .ok d → d.code = x := by
    intro x d h
    unfold Dst.ofCode at h
    split at h <;> first | (injection h with h; subst h; rfl) | contradiction
  exact key x d h

theorem Src.ofCode_code (s : Src) : Src.ofCode s.code = .ok s := by cases s <;> rfl

theorem Src.code_ofCode (x : BitVec 4) (s : Src) (h : Src.ofCode x = .ok s) : s.code = x := by
  unfold Src.ofCode at h
  split at h <;> first | (injection h with h; subst h; rfl) | contradiction

theorem NextSel.ofCode_code (n : NextSel) : NextSel.ofCode n.code = .ok n := by cases n <;> rfl

theorem NextSel.code_ofCode (x : BitVec 4) (n : NextSel) (h : NextSel.ofCode x = .ok n) : n.code = x := by
  unfold NextSel.ofCode at h
  split at h <;> first | (injection h with h; subst h; rfl) | contradiction

theorem ResultSel.ofField_code (r : ResultSel) : ResultSel.ofField r.code = .ok r := by cases r <;> rfl

theorem ResultSel.code_ofField (b : Byte) (r : ResultSel) (h : ResultSel.ofField b = .ok r) : r.code = b := by
  unfold ResultSel.ofField at h
  split at h <;> first | (injection h with h; subst h; rfl) | contradiction

theorem Status.ofField_code (s : Status) (h : s.encodable = true) : Status.ofField (s.code.setWidth 8) = .ok s := by
  cases s <;> first | rfl | contradiction

theorem Status.code_ofField (a : Byte) (s : Status) (h : Status.ofField a = .ok s) :
    s.encodable = true ∧ s.code.setWidth 8 = a := by
  unfold Status.ofField at h
  split at h <;> first | (injection h with h; subst h; exact ⟨rfl, rfl⟩) | contradiction

/-! ## Command words and frames -/

theorem toNat_cmdWord (op : BitVec 3) (arg : Word) : (cmdWord op arg).toNat = op.toNat * 4294967296 + arg.toNat :=
  toNat_append_add op arg

theorem cmdWord_op (op : BitVec 3) (arg : Word) : (cmdWord op arg).extractLsb' 32 3 = op := by
  apply BitVec.eq_of_toNat_eq
  have := op.isLt; have := arg.isLt
  rw [BitVec.extractLsb'_toNat, toNat_cmdWord, Nat.shiftRight_eq_div_pow]
  omega

theorem cmdWord_arg (op : BitVec 3) (arg : Word) : (cmdWord op arg).extractLsb' 0 32 = arg := by
  apply BitVec.eq_of_toNat_eq
  have := arg.isLt
  rw [BitVec.extractLsb'_toNat, toNat_cmdWord, Nat.shiftRight_zero]
  omega

theorem cmdWord_fields (w : BitVec 35) : cmdWord (w.extractLsb' 32 3) (w.extractLsb' 0 32) = w := by
  apply BitVec.eq_of_toNat_eq
  have := w.isLt
  rw [toNat_cmdWord, BitVec.extractLsb'_toNat, BitVec.extractLsb'_toNat, Nat.shiftRight_eq_div_pow, Nat.shiftRight_zero]
  omega

end Sys2Proof
end

