-- ==== Sys2Proof/Laws/State.lean ====
section
/-! SUPPORT. One lemma per field per named update of the state and of its registers, so that no later proof unfolds a
record update. -/

namespace Sys2Proof.Machine

variable (s : State) (r : Regs)

/-! ## `State.setLife` -/

@[simp] theorem State.setLife_life (l : Life) : (s.setLife l).life = l := rfl
@[simp] theorem State.setLife_upc (l : Life) : (s.setLife l).upc = s.upc := rfl
@[simp] theorem State.setLife_busy (l : Life) : (s.setLife l).busy = s.busy := rfl
@[simp] theorem State.setLife_csN (l : Life) : (s.setLife l).csN = s.csN := rfl
@[simp] theorem State.setLife_rspStatus (l : Life) : (s.setLife l).rspStatus = s.rspStatus := rfl
@[simp] theorem State.setLife_rspData (l : Life) : (s.setLife l).rspData = s.rspData := rfl
@[simp] theorem State.setLife_rspValid (l : Life) : (s.setLife l).rspValid = s.rspValid := rfl
@[simp] theorem State.setLife_regs (l : Life) : (s.setLife l).regs = s.regs := rfl
@[simp] theorem State.setLife_held (l : Life) : (s.setLife l).held = s.held := rfl
@[simp] theorem State.setLife_undefRead (l : Life) : (s.setLife l).undefRead = s.undefRead := rfl
@[simp] theorem State.setLife_bus (l : Life) : (s.setLife l).bus = s.bus := rfl
@[simp] theorem State.setLife_env (l : Life) : (s.setLife l).env = s.env := rfl
@[simp] theorem State.setLife_rom (l : Life) : (s.setLife l).rom = s.rom := rfl
@[simp] theorem State.setLife_frame (l : Life) : (s.setLife l).frame = s.frame := rfl
@[simp] theorem State.setLife_trace (l : Life) : (s.setLife l).trace = s.trace := rfl

/-! ## `State.setUpc` -/

@[simp] theorem State.setUpc_life (a : UAddr) : (s.setUpc a).life = s.life := rfl
@[simp] theorem State.setUpc_upc (a : UAddr) : (s.setUpc a).upc = a := rfl
@[simp] theorem State.setUpc_busy (a : UAddr) : (s.setUpc a).busy = s.busy := rfl
@[simp] theorem State.setUpc_csN (a : UAddr) : (s.setUpc a).csN = s.csN := rfl
@[simp] theorem State.setUpc_rspStatus (a : UAddr) : (s.setUpc a).rspStatus = s.rspStatus := rfl
@[simp] theorem State.setUpc_rspData (a : UAddr) : (s.setUpc a).rspData = s.rspData := rfl
@[simp] theorem State.setUpc_rspValid (a : UAddr) : (s.setUpc a).rspValid = s.rspValid := rfl
@[simp] theorem State.setUpc_regs (a : UAddr) : (s.setUpc a).regs = s.regs := rfl
@[simp] theorem State.setUpc_held (a : UAddr) : (s.setUpc a).held = s.held := rfl
@[simp] theorem State.setUpc_undefRead (a : UAddr) : (s.setUpc a).undefRead = s.undefRead := rfl
@[simp] theorem State.setUpc_bus (a : UAddr) : (s.setUpc a).bus = s.bus := rfl
@[simp] theorem State.setUpc_env (a : UAddr) : (s.setUpc a).env = s.env := rfl
@[simp] theorem State.setUpc_rom (a : UAddr) : (s.setUpc a).rom = s.rom := rfl
@[simp] theorem State.setUpc_frame (a : UAddr) : (s.setUpc a).frame = s.frame := rfl
@[simp] theorem State.setUpc_trace (a : UAddr) : (s.setUpc a).trace = s.trace := rfl

/-! ## `State.setBusy` -/

@[simp] theorem State.setBusy_life (b : Bool) : (s.setBusy b).life = s.life := rfl
@[simp] theorem State.setBusy_upc (b : Bool) : (s.setBusy b).upc = s.upc := rfl
@[simp] theorem State.setBusy_busy (b : Bool) : (s.setBusy b).busy = b := rfl
@[simp] theorem State.setBusy_csN (b : Bool) : (s.setBusy b).csN = s.csN := rfl
@[simp] theorem State.setBusy_rspStatus (b : Bool) : (s.setBusy b).rspStatus = s.rspStatus := rfl
@[simp] theorem State.setBusy_rspData (b : Bool) : (s.setBusy b).rspData = s.rspData := rfl
@[simp] theorem State.setBusy_rspValid (b : Bool) : (s.setBusy b).rspValid = s.rspValid := rfl
@[simp] theorem State.setBusy_regs (b : Bool) : (s.setBusy b).regs = s.regs := rfl
@[simp] theorem State.setBusy_held (b : Bool) : (s.setBusy b).held = s.held := rfl
@[simp] theorem State.setBusy_undefRead (b : Bool) : (s.setBusy b).undefRead = s.undefRead := rfl
@[simp] theorem State.setBusy_bus (b : Bool) : (s.setBusy b).bus = s.bus := rfl
@[simp] theorem State.setBusy_env (b : Bool) : (s.setBusy b).env = s.env := rfl
@[simp] theorem State.setBusy_rom (b : Bool) : (s.setBusy b).rom = s.rom := rfl
@[simp] theorem State.setBusy_frame (b : Bool) : (s.setBusy b).frame = s.frame := rfl
@[simp] theorem State.setBusy_trace (b : Bool) : (s.setBusy b).trace = s.trace := rfl

/-! ## `State.setCsN` -/

@[simp] theorem State.setCsN_life (b : Bool) : (s.setCsN b).life = s.life := rfl
@[simp] theorem State.setCsN_upc (b : Bool) : (s.setCsN b).upc = s.upc := rfl
@[simp] theorem State.setCsN_busy (b : Bool) : (s.setCsN b).busy = s.busy := rfl
@[simp] theorem State.setCsN_csN (b : Bool) : (s.setCsN b).csN = b := rfl
@[simp] theorem State.setCsN_rspStatus (b : Bool) : (s.setCsN b).rspStatus = s.rspStatus := rfl
@[simp] theorem State.setCsN_rspData (b : Bool) : (s.setCsN b).rspData = s.rspData := rfl
@[simp] theorem State.setCsN_rspValid (b : Bool) : (s.setCsN b).rspValid = s.rspValid := rfl
@[simp] theorem State.setCsN_regs (b : Bool) : (s.setCsN b).regs = s.regs := rfl
@[simp] theorem State.setCsN_held (b : Bool) : (s.setCsN b).held = s.held := rfl
@[simp] theorem State.setCsN_undefRead (b : Bool) : (s.setCsN b).undefRead = s.undefRead := rfl
@[simp] theorem State.setCsN_bus (b : Bool) : (s.setCsN b).bus = s.bus := rfl
@[simp] theorem State.setCsN_env (b : Bool) : (s.setCsN b).env = s.env := rfl
@[simp] theorem State.setCsN_rom (b : Bool) : (s.setCsN b).rom = s.rom := rfl
@[simp] theorem State.setCsN_frame (b : Bool) : (s.setCsN b).frame = s.frame := rfl
@[simp] theorem State.setCsN_trace (b : Bool) : (s.setCsN b).trace = s.trace := rfl

/-! ## `State.setRegs` -/

@[simp] theorem State.setRegs_life (r : Regs) : (s.setRegs r).life = s.life := rfl
@[simp] theorem State.setRegs_upc (r : Regs) : (s.setRegs r).upc = s.upc := rfl
@[simp] theorem State.setRegs_busy (r : Regs) : (s.setRegs r).busy = s.busy := rfl
@[simp] theorem State.setRegs_csN (r : Regs) : (s.setRegs r).csN = s.csN := rfl
@[simp] theorem State.setRegs_rspStatus (r : Regs) : (s.setRegs r).rspStatus = s.rspStatus := rfl
@[simp] theorem State.setRegs_rspData (r : Regs) : (s.setRegs r).rspData = s.rspData := rfl
@[simp] theorem State.setRegs_rspValid (r : Regs) : (s.setRegs r).rspValid = s.rspValid := rfl
@[simp] theorem State.setRegs_regs (r : Regs) : (s.setRegs r).regs = r := rfl
@[simp] theorem State.setRegs_held (r : Regs) : (s.setRegs r).held = s.held := rfl
@[simp] theorem State.setRegs_undefRead (r : Regs) : (s.setRegs r).undefRead = s.undefRead := rfl
@[simp] theorem State.setRegs_bus (r : Regs) : (s.setRegs r).bus = s.bus := rfl
@[simp] theorem State.setRegs_env (r : Regs) : (s.setRegs r).env = s.env := rfl
@[simp] theorem State.setRegs_rom (r : Regs) : (s.setRegs r).rom = s.rom := rfl
@[simp] theorem State.setRegs_frame (r : Regs) : (s.setRegs r).frame = s.frame := rfl
@[simp] theorem State.setRegs_trace (r : Regs) : (s.setRegs r).trace = s.trace := rfl

/-! ## `State.setHeld` -/

@[simp] theorem State.setHeld_life (b : Bool) : (s.setHeld b).life = s.life := rfl
@[simp] theorem State.setHeld_upc (b : Bool) : (s.setHeld b).upc = s.upc := rfl
@[simp] theorem State.setHeld_busy (b : Bool) : (s.setHeld b).busy = s.busy := rfl
@[simp] theorem State.setHeld_csN (b : Bool) : (s.setHeld b).csN = s.csN := rfl
@[simp] theorem State.setHeld_rspStatus (b : Bool) : (s.setHeld b).rspStatus = s.rspStatus := rfl
@[simp] theorem State.setHeld_rspData (b : Bool) : (s.setHeld b).rspData = s.rspData := rfl
@[simp] theorem State.setHeld_rspValid (b : Bool) : (s.setHeld b).rspValid = s.rspValid := rfl
@[simp] theorem State.setHeld_regs (b : Bool) : (s.setHeld b).regs = s.regs := rfl
@[simp] theorem State.setHeld_held (b : Bool) : (s.setHeld b).held = b := rfl
@[simp] theorem State.setHeld_undefRead (b : Bool) : (s.setHeld b).undefRead = s.undefRead := rfl
@[simp] theorem State.setHeld_bus (b : Bool) : (s.setHeld b).bus = s.bus := rfl
@[simp] theorem State.setHeld_env (b : Bool) : (s.setHeld b).env = s.env := rfl
@[simp] theorem State.setHeld_rom (b : Bool) : (s.setHeld b).rom = s.rom := rfl
@[simp] theorem State.setHeld_frame (b : Bool) : (s.setHeld b).frame = s.frame := rfl
@[simp] theorem State.setHeld_trace (b : Bool) : (s.setHeld b).trace = s.trace := rfl

/-! ## `State.setBus` -/

@[simp] theorem State.setBus_life (b : Bus) : (s.setBus b).life = s.life := rfl
@[simp] theorem State.setBus_upc (b : Bus) : (s.setBus b).upc = s.upc := rfl
@[simp] theorem State.setBus_busy (b : Bus) : (s.setBus b).busy = s.busy := rfl
@[simp] theorem State.setBus_csN (b : Bus) : (s.setBus b).csN = s.csN := rfl
@[simp] theorem State.setBus_rspStatus (b : Bus) : (s.setBus b).rspStatus = s.rspStatus := rfl
@[simp] theorem State.setBus_rspData (b : Bus) : (s.setBus b).rspData = s.rspData := rfl
@[simp] theorem State.setBus_rspValid (b : Bus) : (s.setBus b).rspValid = s.rspValid := rfl
@[simp] theorem State.setBus_regs (b : Bus) : (s.setBus b).regs = s.regs := rfl
@[simp] theorem State.setBus_held (b : Bus) : (s.setBus b).held = s.held := rfl
@[simp] theorem State.setBus_undefRead (b : Bus) : (s.setBus b).undefRead = s.undefRead := rfl
@[simp] theorem State.setBus_bus (b : Bus) : (s.setBus b).bus = b := rfl
@[simp] theorem State.setBus_env (b : Bus) : (s.setBus b).env = s.env := rfl
@[simp] theorem State.setBus_rom (b : Bus) : (s.setBus b).rom = s.rom := rfl
@[simp] theorem State.setBus_frame (b : Bus) : (s.setBus b).frame = s.frame := rfl
@[simp] theorem State.setBus_trace (b : Bus) : (s.setBus b).trace = s.trace := rfl

/-! ## `State.setEnv` -/

@[simp] theorem State.setEnv_life (e : Env) : (s.setEnv e).life = s.life := rfl
@[simp] theorem State.setEnv_upc (e : Env) : (s.setEnv e).upc = s.upc := rfl
@[simp] theorem State.setEnv_busy (e : Env) : (s.setEnv e).busy = s.busy := rfl
@[simp] theorem State.setEnv_csN (e : Env) : (s.setEnv e).csN = s.csN := rfl
@[simp] theorem State.setEnv_rspStatus (e : Env) : (s.setEnv e).rspStatus = s.rspStatus := rfl
@[simp] theorem State.setEnv_rspData (e : Env) : (s.setEnv e).rspData = s.rspData := rfl
@[simp] theorem State.setEnv_rspValid (e : Env) : (s.setEnv e).rspValid = s.rspValid := rfl
@[simp] theorem State.setEnv_regs (e : Env) : (s.setEnv e).regs = s.regs := rfl
@[simp] theorem State.setEnv_held (e : Env) : (s.setEnv e).held = s.held := rfl
@[simp] theorem State.setEnv_undefRead (e : Env) : (s.setEnv e).undefRead = s.undefRead := rfl
@[simp] theorem State.setEnv_bus (e : Env) : (s.setEnv e).bus = s.bus := rfl
@[simp] theorem State.setEnv_env (e : Env) : (s.setEnv e).env = e := rfl
@[simp] theorem State.setEnv_rom (e : Env) : (s.setEnv e).rom = s.rom := rfl
@[simp] theorem State.setEnv_frame (e : Env) : (s.setEnv e).frame = s.frame := rfl
@[simp] theorem State.setEnv_trace (e : Env) : (s.setEnv e).trace = s.trace := rfl

/-! ## `State.advance` -/

@[simp] theorem State.advance_life : s.advance.life = s.life := rfl
@[simp] theorem State.advance_upc : s.advance.upc = s.upc + 1 := rfl
@[simp] theorem State.advance_busy : s.advance.busy = s.busy := rfl
@[simp] theorem State.advance_csN : s.advance.csN = s.csN := rfl
@[simp] theorem State.advance_rspStatus : s.advance.rspStatus = s.rspStatus := rfl
@[simp] theorem State.advance_rspData : s.advance.rspData = s.rspData := rfl
@[simp] theorem State.advance_rspValid : s.advance.rspValid = s.rspValid := rfl
@[simp] theorem State.advance_regs : s.advance.regs = s.regs := rfl
@[simp] theorem State.advance_held : s.advance.held = s.held := rfl
@[simp] theorem State.advance_undefRead : s.advance.undefRead = s.undefRead := rfl
@[simp] theorem State.advance_bus : s.advance.bus = s.bus := rfl
@[simp] theorem State.advance_env : s.advance.env = s.env := rfl
@[simp] theorem State.advance_rom : s.advance.rom = s.rom := rfl
@[simp] theorem State.advance_frame : s.advance.frame = s.frame := rfl
@[simp] theorem State.advance_trace : s.advance.trace = s.trace := rfl

/-! ## `State.noteRead` -/

@[simp] theorem State.noteRead_life (b : Bool) : (s.noteRead b).life = s.life := rfl
@[simp] theorem State.noteRead_upc (b : Bool) : (s.noteRead b).upc = s.upc := rfl
@[simp] theorem State.noteRead_busy (b : Bool) : (s.noteRead b).busy = s.busy := rfl
@[simp] theorem State.noteRead_csN (b : Bool) : (s.noteRead b).csN = s.csN := rfl
@[simp] theorem State.noteRead_rspStatus (b : Bool) : (s.noteRead b).rspStatus = s.rspStatus := rfl
@[simp] theorem State.noteRead_rspData (b : Bool) : (s.noteRead b).rspData = s.rspData := rfl
@[simp] theorem State.noteRead_rspValid (b : Bool) : (s.noteRead b).rspValid = s.rspValid := rfl
@[simp] theorem State.noteRead_regs (b : Bool) : (s.noteRead b).regs = s.regs := rfl
@[simp] theorem State.noteRead_held (b : Bool) : (s.noteRead b).held = s.held := rfl
@[simp] theorem State.noteRead_undefRead (b : Bool) : (s.noteRead b).undefRead = (s.undefRead || !b) := rfl
@[simp] theorem State.noteRead_bus (b : Bool) : (s.noteRead b).bus = s.bus := rfl
@[simp] theorem State.noteRead_env (b : Bool) : (s.noteRead b).env = s.env := rfl
@[simp] theorem State.noteRead_rom (b : Bool) : (s.noteRead b).rom = s.rom := rfl
@[simp] theorem State.noteRead_frame (b : Bool) : (s.noteRead b).frame = s.frame := rfl
@[simp] theorem State.noteRead_trace (b : Bool) : (s.noteRead b).trace = s.trace := rfl

/-! ## `State.emit` -/

@[simp] theorem State.emit_life (ev : Event) : (s.emit ev).life = s.life := rfl
@[simp] theorem State.emit_upc (ev : Event) : (s.emit ev).upc = s.upc := rfl
@[simp] theorem State.emit_busy (ev : Event) : (s.emit ev).busy = s.busy := rfl
@[simp] theorem State.emit_csN (ev : Event) : (s.emit ev).csN = s.csN := rfl
@[simp] theorem State.emit_rspStatus (ev : Event) : (s.emit ev).rspStatus = s.rspStatus := rfl
@[simp] theorem State.emit_rspData (ev : Event) : (s.emit ev).rspData = s.rspData := rfl
@[simp] theorem State.emit_rspValid (ev : Event) : (s.emit ev).rspValid = s.rspValid := rfl
@[simp] theorem State.emit_regs (ev : Event) : (s.emit ev).regs = s.regs := rfl
@[simp] theorem State.emit_held (ev : Event) : (s.emit ev).held = s.held := rfl
@[simp] theorem State.emit_undefRead (ev : Event) : (s.emit ev).undefRead = s.undefRead := rfl
@[simp] theorem State.emit_bus (ev : Event) : (s.emit ev).bus = s.bus := rfl
@[simp] theorem State.emit_env (ev : Event) : (s.emit ev).env = s.env := rfl
@[simp] theorem State.emit_rom (ev : Event) : (s.emit ev).rom = s.rom := rfl
@[simp] theorem State.emit_frame (ev : Event) : (s.emit ev).frame = s.frame := rfl
@[simp] theorem State.emit_trace (ev : Event) : (s.emit ev).trace = s.trace ++ [{ ev := ev, time := s.env.now }] := rfl

/-! ## `State.tick` -/

@[simp] theorem State.tick_life : s.tick.life = s.life := rfl
@[simp] theorem State.tick_upc : s.tick.upc = s.upc := rfl
@[simp] theorem State.tick_busy : s.tick.busy = s.busy := rfl
@[simp] theorem State.tick_csN : s.tick.csN = s.csN := rfl
@[simp] theorem State.tick_rspStatus : s.tick.rspStatus = s.rspStatus := rfl
@[simp] theorem State.tick_rspData : s.tick.rspData = s.rspData := rfl
@[simp] theorem State.tick_rspValid : s.tick.rspValid = s.rspValid := rfl
@[simp] theorem State.tick_regs : s.tick.regs = s.regs := rfl
@[simp] theorem State.tick_held : s.tick.held = s.held := rfl
@[simp] theorem State.tick_undefRead : s.tick.undefRead = s.undefRead := rfl
@[simp] theorem State.tick_bus : s.tick.bus = s.bus := rfl
@[simp] theorem State.tick_env : s.tick.env = s.env.tick := rfl
@[simp] theorem State.tick_rom : s.tick.rom = s.rom := rfl
@[simp] theorem State.tick_frame : s.tick.frame = s.frame := rfl
@[simp] theorem State.tick_trace : s.tick.trace = s.trace := rfl

/-! ## `State.selectChip` -/

@[simp] theorem State.selectChip_life : s.selectChip.life = s.life := rfl
@[simp] theorem State.selectChip_upc : s.selectChip.upc = s.upc := rfl
@[simp] theorem State.selectChip_busy : s.selectChip.busy = s.busy := rfl
@[simp] theorem State.selectChip_csN : s.selectChip.csN = false := rfl
@[simp] theorem State.selectChip_rspStatus : s.selectChip.rspStatus = s.rspStatus := rfl
@[simp] theorem State.selectChip_rspData : s.selectChip.rspData = s.rspData := rfl
@[simp] theorem State.selectChip_rspValid : s.selectChip.rspValid = s.rspValid := rfl
@[simp] theorem State.selectChip_regs : s.selectChip.regs = s.regs := rfl
@[simp] theorem State.selectChip_held : s.selectChip.held = s.held := rfl
@[simp] theorem State.selectChip_undefRead : s.selectChip.undefRead = s.undefRead := rfl
@[simp] theorem State.selectChip_bus : s.selectChip.bus = s.bus := rfl
@[simp] theorem State.selectChip_env : s.selectChip.env = s.env := rfl
@[simp] theorem State.selectChip_rom : s.selectChip.rom = s.rom := rfl
@[simp] theorem State.selectChip_frame : s.selectChip.frame = s.frame := rfl
@[simp] theorem State.selectChip_trace : s.selectChip.trace = s.trace ++ [{ ev := .csl, time := s.env.now }] := rfl

/-! ## `State.releaseChip` -/

@[simp] theorem State.releaseChip_life : s.releaseChip.life = s.life := rfl
@[simp] theorem State.releaseChip_upc : s.releaseChip.upc = s.upc := rfl
@[simp] theorem State.releaseChip_busy : s.releaseChip.busy = s.busy := rfl
@[simp] theorem State.releaseChip_csN : s.releaseChip.csN = true := rfl
@[simp] theorem State.releaseChip_rspStatus : s.releaseChip.rspStatus = s.rspStatus := rfl
@[simp] theorem State.releaseChip_rspData : s.releaseChip.rspData = s.rspData := rfl
@[simp] theorem State.releaseChip_rspValid : s.releaseChip.rspValid = s.rspValid := rfl
@[simp] theorem State.releaseChip_regs : s.releaseChip.regs = s.regs := rfl
@[simp] theorem State.releaseChip_held : s.releaseChip.held = s.held := rfl
@[simp] theorem State.releaseChip_undefRead : s.releaseChip.undefRead = s.undefRead := rfl
@[simp] theorem State.releaseChip_bus : s.releaseChip.bus = s.bus := rfl
@[simp] theorem State.releaseChip_env : s.releaseChip.env = s.env := rfl
@[simp] theorem State.releaseChip_rom : s.releaseChip.rom = s.rom := rfl
@[simp] theorem State.releaseChip_frame : s.releaseChip.frame = s.frame := rfl
@[simp] theorem State.releaseChip_trace : s.releaseChip.trace = s.trace ++ [{ ev := .csh, time := s.env.now }] := rfl

/-! ## `State.respond` -/

@[simp] theorem State.respond_life (st : Status) (d : Word) : (s.respond st d).life = s.life := rfl
@[simp] theorem State.respond_upc (st : Status) (d : Word) : (s.respond st d).upc = s.upc := rfl
@[simp] theorem State.respond_busy (st : Status) (d : Word) : (s.respond st d).busy = false := rfl
@[simp] theorem State.respond_csN (st : Status) (d : Word) : (s.respond st d).csN = s.csN := rfl
@[simp] theorem State.respond_rspStatus (st : Status) (d : Word) : (s.respond st d).rspStatus = st.code := rfl
@[simp] theorem State.respond_rspData (st : Status) (d : Word) : (s.respond st d).rspData = d := rfl
@[simp] theorem State.respond_rspValid (st : Status) (d : Word) : (s.respond st d).rspValid = true := rfl
@[simp] theorem State.respond_regs (st : Status) (d : Word) : (s.respond st d).regs = s.regs := rfl
@[simp] theorem State.respond_held (st : Status) (d : Word) : (s.respond st d).held = false := rfl
@[simp] theorem State.respond_undefRead (st : Status) (d : Word) : (s.respond st d).undefRead = s.undefRead := rfl
@[simp] theorem State.respond_bus (st : Status) (d : Word) : (s.respond st d).bus = s.bus := rfl
@[simp] theorem State.respond_env (st : Status) (d : Word) : (s.respond st d).env = s.env := rfl
@[simp] theorem State.respond_rom (st : Status) (d : Word) : (s.respond st d).rom = s.rom := rfl
@[simp] theorem State.respond_frame (st : Status) (d : Word) : (s.respond st d).frame = s.frame := rfl
@[simp] theorem State.respond_trace (st : Status) (d : Word) : (s.respond st d).trace = s.trace ++ [{ ev := .rsp st.code d, time := s.env.now }] := rfl

@[simp] theorem Cell.of_val {α : Type} (v : α) : (Cell.of v).val = v := rfl
@[simp] theorem Cell.of_written {α : Type} (v : α) : (Cell.of v).written = true := rfl

/-! ## `Regs.setRb` -/

@[simp] theorem Regs.setRb_rb (v : Byte) : (r.setRb v).rb = Cell.of v := rfl
@[simp] theorem Regs.setRb_c1 (v : Byte) : (r.setRb v).c1 = r.c1 := rfl
@[simp] theorem Regs.setRb_c2 (v : Byte) : (r.setRb v).c2 = r.c2 := rfl
@[simp] theorem Regs.setRb_pidr (v : Byte) : (r.setRb v).pidr = r.pidr := rfl
@[simp] theorem Regs.setRb_revr (v : Byte) : (r.setRb v).revr = r.revr := rfl
@[simp] theorem Regs.setRb_om (v : Byte) : (r.setRb v).om = r.om := rfl
@[simp] theorem Regs.setRb_arg (v : Byte) : (r.setRb v).arg = r.arg := rfl
@[simp] theorem Regs.setRb_t0 (v : Byte) : (r.setRb v).t0 = r.t0 := rfl
@[simp] theorem Regs.setRb_tstart (v : Byte) : (r.setRb v).tstart = r.tstart := rfl
@[simp] theorem Regs.setRb_fb (v : Byte) : (r.setRb v).fb = r.fb := rfl
@[simp] theorem Regs.setRb_pb (v : Byte) : (r.setRb v).pb = r.pb := rfl

/-! ## `Regs.setC1` -/

@[simp] theorem Regs.setC1_rb (v : Byte) : (r.setC1 v).rb = r.rb := rfl
@[simp] theorem Regs.setC1_c1 (v : Byte) : (r.setC1 v).c1 = Cell.of v := rfl
@[simp] theorem Regs.setC1_c2 (v : Byte) : (r.setC1 v).c2 = r.c2 := rfl
@[simp] theorem Regs.setC1_pidr (v : Byte) : (r.setC1 v).pidr = r.pidr := rfl
@[simp] theorem Regs.setC1_revr (v : Byte) : (r.setC1 v).revr = r.revr := rfl
@[simp] theorem Regs.setC1_om (v : Byte) : (r.setC1 v).om = r.om := rfl
@[simp] theorem Regs.setC1_arg (v : Byte) : (r.setC1 v).arg = r.arg := rfl
@[simp] theorem Regs.setC1_t0 (v : Byte) : (r.setC1 v).t0 = r.t0 := rfl
@[simp] theorem Regs.setC1_tstart (v : Byte) : (r.setC1 v).tstart = r.tstart := rfl
@[simp] theorem Regs.setC1_fb (v : Byte) : (r.setC1 v).fb = r.fb := rfl
@[simp] theorem Regs.setC1_pb (v : Byte) : (r.setC1 v).pb = r.pb := rfl

/-! ## `Regs.setC2` -/

@[simp] theorem Regs.setC2_rb (v : Byte) : (r.setC2 v).rb = r.rb := rfl
@[simp] theorem Regs.setC2_c1 (v : Byte) : (r.setC2 v).c1 = r.c1 := rfl
@[simp] theorem Regs.setC2_c2 (v : Byte) : (r.setC2 v).c2 = Cell.of v := rfl
@[simp] theorem Regs.setC2_pidr (v : Byte) : (r.setC2 v).pidr = r.pidr := rfl
@[simp] theorem Regs.setC2_revr (v : Byte) : (r.setC2 v).revr = r.revr := rfl
@[simp] theorem Regs.setC2_om (v : Byte) : (r.setC2 v).om = r.om := rfl
@[simp] theorem Regs.setC2_arg (v : Byte) : (r.setC2 v).arg = r.arg := rfl
@[simp] theorem Regs.setC2_t0 (v : Byte) : (r.setC2 v).t0 = r.t0 := rfl
@[simp] theorem Regs.setC2_tstart (v : Byte) : (r.setC2 v).tstart = r.tstart := rfl
@[simp] theorem Regs.setC2_fb (v : Byte) : (r.setC2 v).fb = r.fb := rfl
@[simp] theorem Regs.setC2_pb (v : Byte) : (r.setC2 v).pb = r.pb := rfl

/-! ## `Regs.setPidr` -/

@[simp] theorem Regs.setPidr_rb (v : Byte) : (r.setPidr v).rb = r.rb := rfl
@[simp] theorem Regs.setPidr_c1 (v : Byte) : (r.setPidr v).c1 = r.c1 := rfl
@[simp] theorem Regs.setPidr_c2 (v : Byte) : (r.setPidr v).c2 = r.c2 := rfl
@[simp] theorem Regs.setPidr_pidr (v : Byte) : (r.setPidr v).pidr = Cell.of v := rfl
@[simp] theorem Regs.setPidr_revr (v : Byte) : (r.setPidr v).revr = r.revr := rfl
@[simp] theorem Regs.setPidr_om (v : Byte) : (r.setPidr v).om = r.om := rfl
@[simp] theorem Regs.setPidr_arg (v : Byte) : (r.setPidr v).arg = r.arg := rfl
@[simp] theorem Regs.setPidr_t0 (v : Byte) : (r.setPidr v).t0 = r.t0 := rfl
@[simp] theorem Regs.setPidr_tstart (v : Byte) : (r.setPidr v).tstart = r.tstart := rfl
@[simp] theorem Regs.setPidr_fb (v : Byte) : (r.setPidr v).fb = r.fb := rfl
@[simp] theorem Regs.setPidr_pb (v : Byte) : (r.setPidr v).pb = r.pb := rfl

/-! ## `Regs.setRevr` -/

@[simp] theorem Regs.setRevr_rb (v : Byte) : (r.setRevr v).rb = r.rb := rfl
@[simp] theorem Regs.setRevr_c1 (v : Byte) : (r.setRevr v).c1 = r.c1 := rfl
@[simp] theorem Regs.setRevr_c2 (v : Byte) : (r.setRevr v).c2 = r.c2 := rfl
@[simp] theorem Regs.setRevr_pidr (v : Byte) : (r.setRevr v).pidr = r.pidr := rfl
@[simp] theorem Regs.setRevr_revr (v : Byte) : (r.setRevr v).revr = Cell.of v := rfl
@[simp] theorem Regs.setRevr_om (v : Byte) : (r.setRevr v).om = r.om := rfl
@[simp] theorem Regs.setRevr_arg (v : Byte) : (r.setRevr v).arg = r.arg := rfl
@[simp] theorem Regs.setRevr_t0 (v : Byte) : (r.setRevr v).t0 = r.t0 := rfl
@[simp] theorem Regs.setRevr_tstart (v : Byte) : (r.setRevr v).tstart = r.tstart := rfl
@[simp] theorem Regs.setRevr_fb (v : Byte) : (r.setRevr v).fb = r.fb := rfl
@[simp] theorem Regs.setRevr_pb (v : Byte) : (r.setRevr v).pb = r.pb := rfl

/-! ## `Regs.setOm` -/

@[simp] theorem Regs.setOm_rb (v : Byte) : (r.setOm v).rb = r.rb := rfl
@[simp] theorem Regs.setOm_c1 (v : Byte) : (r.setOm v).c1 = r.c1 := rfl
@[simp] theorem Regs.setOm_c2 (v : Byte) : (r.setOm v).c2 = r.c2 := rfl
@[simp] theorem Regs.setOm_pidr (v : Byte) : (r.setOm v).pidr = r.pidr := rfl
@[simp] theorem Regs.setOm_revr (v : Byte) : (r.setOm v).revr = r.revr := rfl
@[simp] theorem Regs.setOm_om (v : Byte) : (r.setOm v).om = Cell.of v := rfl
@[simp] theorem Regs.setOm_arg (v : Byte) : (r.setOm v).arg = r.arg := rfl
@[simp] theorem Regs.setOm_t0 (v : Byte) : (r.setOm v).t0 = r.t0 := rfl
@[simp] theorem Regs.setOm_tstart (v : Byte) : (r.setOm v).tstart = r.tstart := rfl
@[simp] theorem Regs.setOm_fb (v : Byte) : (r.setOm v).fb = r.fb := rfl
@[simp] theorem Regs.setOm_pb (v : Byte) : (r.setOm v).pb = r.pb := rfl

/-! ## `Regs.setArg` -/

@[simp] theorem Regs.setArg_rb (v : Word) : (r.setArg v).rb = r.rb := rfl
@[simp] theorem Regs.setArg_c1 (v : Word) : (r.setArg v).c1 = r.c1 := rfl
@[simp] theorem Regs.setArg_c2 (v : Word) : (r.setArg v).c2 = r.c2 := rfl
@[simp] theorem Regs.setArg_pidr (v : Word) : (r.setArg v).pidr = r.pidr := rfl
@[simp] theorem Regs.setArg_revr (v : Word) : (r.setArg v).revr = r.revr := rfl
@[simp] theorem Regs.setArg_om (v : Word) : (r.setArg v).om = r.om := rfl
@[simp] theorem Regs.setArg_arg (v : Word) : (r.setArg v).arg = Cell.of v := rfl
@[simp] theorem Regs.setArg_t0 (v : Word) : (r.setArg v).t0 = r.t0 := rfl
@[simp] theorem Regs.setArg_tstart (v : Word) : (r.setArg v).tstart = r.tstart := rfl
@[simp] theorem Regs.setArg_fb (v : Word) : (r.setArg v).fb = r.fb := rfl
@[simp] theorem Regs.setArg_pb (v : Word) : (r.setArg v).pb = r.pb := rfl

/-! ## `Regs.setT0` -/

@[simp] theorem Regs.setT0_rb (v : Word) : (r.setT0 v).rb = r.rb := rfl
@[simp] theorem Regs.setT0_c1 (v : Word) : (r.setT0 v).c1 = r.c1 := rfl
@[simp] theorem Regs.setT0_c2 (v : Word) : (r.setT0 v).c2 = r.c2 := rfl
@[simp] theorem Regs.setT0_pidr (v : Word) : (r.setT0 v).pidr = r.pidr := rfl
@[simp] theorem Regs.setT0_revr (v : Word) : (r.setT0 v).revr = r.revr := rfl
@[simp] theorem Regs.setT0_om (v : Word) : (r.setT0 v).om = r.om := rfl
@[simp] theorem Regs.setT0_arg (v : Word) : (r.setT0 v).arg = r.arg := rfl
@[simp] theorem Regs.setT0_t0 (v : Word) : (r.setT0 v).t0 = Cell.of v := rfl
@[simp] theorem Regs.setT0_tstart (v : Word) : (r.setT0 v).tstart = r.tstart := rfl
@[simp] theorem Regs.setT0_fb (v : Word) : (r.setT0 v).fb = r.fb := rfl
@[simp] theorem Regs.setT0_pb (v : Word) : (r.setT0 v).pb = r.pb := rfl

/-! ## `Regs.setTstart` -/

@[simp] theorem Regs.setTstart_rb (v : Word) : (r.setTstart v).rb = r.rb := rfl
@[simp] theorem Regs.setTstart_c1 (v : Word) : (r.setTstart v).c1 = r.c1 := rfl
@[simp] theorem Regs.setTstart_c2 (v : Word) : (r.setTstart v).c2 = r.c2 := rfl
@[simp] theorem Regs.setTstart_pidr (v : Word) : (r.setTstart v).pidr = r.pidr := rfl
@[simp] theorem Regs.setTstart_revr (v : Word) : (r.setTstart v).revr = r.revr := rfl
@[simp] theorem Regs.setTstart_om (v : Word) : (r.setTstart v).om = r.om := rfl
@[simp] theorem Regs.setTstart_arg (v : Word) : (r.setTstart v).arg = r.arg := rfl
@[simp] theorem Regs.setTstart_t0 (v : Word) : (r.setTstart v).t0 = r.t0 := rfl
@[simp] theorem Regs.setTstart_tstart (v : Word) : (r.setTstart v).tstart = Cell.of v := rfl
@[simp] theorem Regs.setTstart_fb (v : Word) : (r.setTstart v).fb = r.fb := rfl
@[simp] theorem Regs.setTstart_pb (v : Word) : (r.setTstart v).pb = r.pb := rfl

/-! ## `Regs.setFb` -/

@[simp] theorem Regs.setFb_rb (v : Vector Byte 13) : (r.setFb v).rb = r.rb := rfl
@[simp] theorem Regs.setFb_c1 (v : Vector Byte 13) : (r.setFb v).c1 = r.c1 := rfl
@[simp] theorem Regs.setFb_c2 (v : Vector Byte 13) : (r.setFb v).c2 = r.c2 := rfl
@[simp] theorem Regs.setFb_pidr (v : Vector Byte 13) : (r.setFb v).pidr = r.pidr := rfl
@[simp] theorem Regs.setFb_revr (v : Vector Byte 13) : (r.setFb v).revr = r.revr := rfl
@[simp] theorem Regs.setFb_om (v : Vector Byte 13) : (r.setFb v).om = r.om := rfl
@[simp] theorem Regs.setFb_arg (v : Vector Byte 13) : (r.setFb v).arg = r.arg := rfl
@[simp] theorem Regs.setFb_t0 (v : Vector Byte 13) : (r.setFb v).t0 = r.t0 := rfl
@[simp] theorem Regs.setFb_tstart (v : Vector Byte 13) : (r.setFb v).tstart = r.tstart := rfl
@[simp] theorem Regs.setFb_fb (v : Vector Byte 13) : (r.setFb v).fb = Cell.of v := rfl
@[simp] theorem Regs.setFb_pb (v : Vector Byte 13) : (r.setFb v).pb = r.pb := rfl

/-! ## `Regs.setPb` -/

@[simp] theorem Regs.setPb_rb (k : Fin 5) (v : Byte) : (r.setPb k v).rb = r.rb := rfl
@[simp] theorem Regs.setPb_c1 (k : Fin 5) (v : Byte) : (r.setPb k v).c1 = r.c1 := rfl
@[simp] theorem Regs.setPb_c2 (k : Fin 5) (v : Byte) : (r.setPb k v).c2 = r.c2 := rfl
@[simp] theorem Regs.setPb_pidr (k : Fin 5) (v : Byte) : (r.setPb k v).pidr = r.pidr := rfl
@[simp] theorem Regs.setPb_revr (k : Fin 5) (v : Byte) : (r.setPb k v).revr = r.revr := rfl
@[simp] theorem Regs.setPb_om (k : Fin 5) (v : Byte) : (r.setPb k v).om = r.om := rfl
@[simp] theorem Regs.setPb_arg (k : Fin 5) (v : Byte) : (r.setPb k v).arg = r.arg := rfl
@[simp] theorem Regs.setPb_t0 (k : Fin 5) (v : Byte) : (r.setPb k v).t0 = r.t0 := rfl
@[simp] theorem Regs.setPb_tstart (k : Fin 5) (v : Byte) : (r.setPb k v).tstart = r.tstart := rfl
@[simp] theorem Regs.setPb_fb (k : Fin 5) (v : Byte) : (r.setPb k v).fb = r.fb := rfl
@[simp] theorem Regs.setPb_pb (k : Fin 5) (v : Byte) : (r.setPb k v).pb = r.pb.set k.val (Cell.of v) k.isLt := rfl

end Sys2Proof.Machine
end

