-- ==== Sys2Proof/Laws/Ops.lean ====
section
/-! SUPPORT. One lemma per shared operation, saying once everything it can do. -/

namespace Sys2Proof.Machine

open Sys2Proof.Safety

/-! ## The environment -/

@[simp] theorem Env.tick_host (e : Env) : e.tick.host = e.host := by
  unfold Env.tick; split <;> rfl

@[simp] theorem Env.tick_chip (e : Env) : e.tick.chip = e.chip := by
  unfold Env.tick; split <;> rfl

theorem Env.tick_cons (e : Env) (d : Word) (rest : List Word) (h : e.ticks = d :: rest) :
    e.tick = { e with now := e.now + d, ticks := rest } := by
  unfold Env.tick; rw [h]

theorem Env.tick_nil (e : Env) (h : e.ticks = []) :
    e.tick = { e with now := e.now + Config.tick e.draws, draws := e.draws + 1 } := by
  unfold Env.tick; rw [h]

@[simp] theorem Env.dropAnswer_host (e : Env) : e.dropAnswer.host = e.host := rfl
@[simp] theorem Env.dropAnswer_chip (e : Env) : e.dropAnswer.chip = e.chip.tail := rfl
@[simp] theorem Env.dropAnswer_now (e : Env) : e.dropAnswer.now = e.now := rfl
@[simp] theorem Env.dropAnswer_ticks (e : Env) : e.dropAnswer.ticks = e.ticks := rfl
@[simp] theorem Env.dropAnswer_draws (e : Env) : e.dropAnswer.draws = e.draws := rfl

/-! ## Transfers -/

theorem onlyBusMoved_iff (s t : State) :
    OnlyBusMoved s t ↔ t.life = s.life ∧ t.upc = s.upc ∧ t.busy = s.busy ∧ t.csN = s.csN ∧ t.rspStatus = s.rspStatus ∧
      t.rspData = s.rspData ∧ t.rspValid = s.rspValid ∧ t.regs = s.regs ∧ t.held = s.held ∧
      t.undefRead = s.undefRead ∧ t.env.host = s.env.host ∧ t.rom = s.rom ∧ t.frame = s.frame := by
  obtain ⟨_, _, _, _, _, _, _, _, _, _, _, ⟨_, _, _, _, _⟩, _, _, _⟩ := s
  obtain ⟨_, _, _, _, _, _, _, _, _, _, _, ⟨_, _, _, _, _⟩, _, _, _⟩ := t
  simp [OnlyBusMoved]

theorem OnlyBusMoved.refl (s : State) : OnlyBusMoved s s := rfl

theorem OnlyBusMoved.trans {s t u : State} (h₁ : OnlyBusMoved s t) (h₂ : OnlyBusMoved t u) : OnlyBusMoved s u := by
  rw [onlyBusMoved_iff] at *
  simp_all

theorem exchange_only_bus (s : State) (tx : Byte) : OnlyBusMoved s (exchange s tx).2 := by
  simp [onlyBusMoved_iff, exchange]

theorem exchangeAll_cons (s : State) (tx : Byte) (rest : List Byte) :
    exchangeAll s (tx :: rest) =
      ((exchange s tx).1 :: (exchangeAll (exchange s tx).2 rest).1, (exchangeAll (exchange s tx).2 rest).2) := rfl

theorem exchangeAll_only_bus (s : State) (tx : List Byte) : OnlyBusMoved s (exchangeAll s tx).2 := by
  induction tx generalizing s with
  | nil => exact OnlyBusMoved.refl s
  | cons b rest ih =>
    rw [exchangeAll_cons]
    exact OnlyBusMoved.trans (exchange_only_bus s b) (ih _)

@[simp] theorem exchangeAll_length (s : State) (tx : List Byte) : (exchangeAll s tx).1.length = tx.length := by
  induction tx generalizing s with
  | nil => rfl
  | cons b rest ih => rw [exchangeAll_cons]; simp [ih]

theorem exchange_trace (s : State) (tx : Byte) :
    (exchange s tx).2.trace = s.trace ++ [{ ev := .byte tx (exchange s tx).1, time := (exchange s tx).2.env.now }] := by
  simp [exchange]

theorem exchangeAll_trace (s : State) (tx : List Byte) :
    ∃ evs : Trace, (exchangeAll s tx).2.trace = s.trace ++ evs ∧
      events evs = byteEvents tx (exchangeAll s tx).1 := by
  induction tx generalizing s with
  | nil => exact ⟨[], by simp [exchangeAll, byteEvents, events]⟩
  | cons b rest ih =>
    rw [exchangeAll_cons]
    obtain ⟨evs, h₁, h₂⟩ := ih (exchange s b).2
    refine ⟨{ ev := .byte b (exchange s b).1, time := (exchange s b).2.env.now } :: evs, ?_, ?_⟩
    · simp [h₁, exchange_trace]
    · simpa [byteEvents, events] using h₂

theorem exchange_scripted (s : State) (tx rx : Byte) (rest : List Byte) (h : s.env.chip = rx :: rest) :
    (exchange s tx).1 = rx ∧ (exchange s tx).2.env.chip = rest := by
  simp [exchange, State.answer, h]

/-- When enough answers are given, they are the ones received, in order. -/
theorem exchangeAll_scripted (s : State) (tx rx rest : List Byte) (hl : rx.length = tx.length)
    (h : s.env.chip = rx ++ rest) : (exchangeAll s tx).1 = rx ∧ (exchangeAll s tx).2.env.chip = rest := by
  induction tx generalizing s rx with
  | nil =>
    have : rx = [] := by simpa using hl
    subst this
    exact ⟨rfl, by simpa [exchangeAll] using h⟩
  | cons b more ih =>
    cases rx with
    | nil => simp at hl
    | cons v vs =>
      rw [exchangeAll_cons]
      obtain ⟨h1, h2⟩ := exchange_scripted s b v (vs ++ rest) (by simpa using h)
      obtain ⟨h3, h4⟩ := ih (exchange s b).2 vs (by simpa using hl) h2
      exact ⟨by rw [h1, h3], h4⟩

theorem xfer_eq (s : State) (tx : List Byte) :
    xfer s tx = ((exchangeAll s.selectChip tx).1, (exchangeAll s.selectChip tx).2.tick.releaseChip) := rfl

@[simp] theorem xfer_length (s : State) (tx : List Byte) : (xfer s tx).1.length = tx.length := by simp [xfer_eq]

/-- `Xfer` begun with chip-select high moves the bus only, and ends with chip-select high. -/
theorem xfer_only_bus (s : State) (tx : List Byte) (h : s.csN = true) : OnlyBusMoved s (xfer s tx).2 := by
  have hx : OnlyBusMoved s.selectChip (exchangeAll s.selectChip tx).2 := exchangeAll_only_bus _ _
  rw [onlyBusMoved_iff] at *
  simp_all [xfer_eq]

/-- `Xfer` adds exactly one window to the trace. -/
theorem xfer_trace (s : State) (tx : List Byte) :
    ∃ evs : Trace, (xfer s tx).2.trace = s.trace ++ evs ∧ events evs = window tx (xfer s tx).1 := by
  rw [xfer_eq]
  obtain ⟨evs, h₁, h₂⟩ := exchangeAll_trace s.selectChip tx
  refine ⟨{ ev := .csl, time := s.env.now } ::
    (evs ++ [{ ev := .csh, time := (exchangeAll s.selectChip tx).2.tick.env.now }]), ?_, ?_⟩
  · simp [h₁]
  · simpa [window, events] using h₂

theorem xfer_scripted (s : State) (tx rx rest : List Byte) (hl : rx.length = tx.length) (h : s.env.chip = rx ++ rest) :
    (xfer s tx).1 = rx ∧ (xfer s tx).2.env.chip = rest := by
  obtain ⟨h₁, h₂⟩ := exchangeAll_scripted s.selectChip tx rx rest hl (by simpa using h)
  exact ⟨h₁, by simp [xfer_eq, h₂]⟩

theorem exchangeAll_ticks (s : State) (tx : List Byte) (ds rest : List Word) (hl : ds.length = tx.length)
    (h : s.env.ticks = ds ++ rest) :
    (exchangeAll s tx).2.env.ticks = rest ∧ (exchangeAll s tx).2.env.now = ds.foldl (· + ·) s.env.now := by
  induction tx generalizing s ds with
  | nil =>
    have : ds = [] := by simpa using hl
    subst this
    exact ⟨by simpa [exchangeAll] using h, rfl⟩
  | cons b more ih =>
    cases ds with
    | nil => simp at hl
    | cons d ds =>
      have ht : s.env.tick = _ := Env.tick_cons s.env d (ds ++ rest) (by simpa using h)
      obtain ⟨h₁, h₂⟩ := ih (exchange s b).2 ds (by simpa using hl) (by simp [exchange, ht])
      rw [exchangeAll_cons]
      exact ⟨h₁, by rw [h₂]; simp [exchange, ht]⟩

/-- `Xfer` draws the clock once before each byte and once before `CSH`. -/
theorem xfer_ticks (s : State) (tx : List Byte) (ds rest : List Word) (hl : ds.length = tx.length + 1)
    (h : s.env.ticks = ds ++ rest) :
    (xfer s tx).2.env.ticks = rest ∧ (xfer s tx).2.env.now = ds.foldl (· + ·) s.env.now := by
  obtain ⟨front, last, rfl⟩ : ∃ front last, ds = front ++ [last] := by
    rcases List.eq_nil_or_concat ds with rfl | ⟨front, last, rfl⟩
    · simp at hl
    · exact ⟨front, last, by simp⟩
  obtain ⟨h₁, h₂⟩ := exchangeAll_ticks s.selectChip tx front (last :: rest) (by simpa using hl) (by simpa using h)
  have ht := Env.tick_cons _ last rest h₁
  rw [xfer_eq]
  exact ⟨by simp [ht], by simp [ht, h₂]⟩

theorem transfer_high (s : State) (tx : List Byte) (keep : List Byte → State → State) (h : s.csN = true) :
    transfer s tx keep = keep (xfer s tx).1 (xfer s tx).2 := by simp [transfer, h]

theorem transfer_low (s : State) (tx : List Byte) (keep : List Byte → State → State) (h : s.csN = false) :
    transfer s tx keep = uFault s := by simp [transfer, h]

/-! ## `UFAULT` (R111) -/

theorem uFault_high (s : State) (h : s.csN = true) :
    uFault s = { s with
      life := .failed, rspStatus := 5, rspData := 0, rspValid := true, busy := false, held := false,
      trace := s.trace ++ [{ ev := .rsp 5 0, time := s.env.now }] } := by
  simp [uFault, h, State.setLife, State.respond, Status.code]

theorem uFault_low (s : State) (h : s.csN = false) :
    uFault s = { s with
      life := .failed, csN := true, rspStatus := 5, rspData := 0, rspValid := true, busy := false, held := false,
      trace := s.trace ++ [{ ev := .csh, time := s.env.now }, { ev := .rsp 5 0, time := s.env.now }] } := by
  simp [uFault, h, State.setLife, State.respond, Status.code, State.releaseChip, State.setCsN, State.emit]

theorem uFault_eq (s : State) : uFault s = afterUFault s := by
  cases h : s.csN
  · rw [uFault_low s h]; simp [afterUFault, h]
  · rw [uFault_high s h]; simp [afterUFault, h]

/-! ## Dispatch (R100) -/

theorem dispatch_busy (op : BitVec 3) (arg : Word) (s : State) (h : s.busy = true) : dispatch op arg s = s := by
  simp [dispatch, h]

theorem dispatch_idle (op : BitVec 3) (arg : Word) (s : State) (h : s.busy = false) :
    dispatch op arg s =
      if op = 6 ∨ op = 7 then (s.emit (.cmd op arg)).respond .badCmd 0
      else if op = 0 ∧ s.life ≠ .uninit then (s.emit (.cmd op arg)).respond .badState 0
      else if op ≠ 0 ∧ s.life ≠ .ready then (s.emit (.cmd op arg)).respond .badState 0
      else (((s.emit (.cmd op arg)).setRegs (s.regs.setArg arg)).setBusy true).setUpc (entry op) := by
  unfold dispatch
  rw [if_neg (by simp [h])]
  rfl

theorem dispatch_reserved (op : BitVec 3) (arg : Word) (s : State) (h : s.busy = false) (h6 : op = 6 ∨ op = 7) :
    dispatch op arg s = (s.emit (.cmd op arg)).respond .badCmd 0 := by
  rw [dispatch_idle op arg s h, if_pos h6]

/-- The lifecycle gate of R100: INIT only in `UNINIT`, every other command only in `READY`. -/
theorem dispatch_refused (op : BitVec 3) (arg : Word) (s : State) (h : s.busy = false) (h6 : ¬(op = 6 ∨ op = 7))
    (hl : op = 0 ∧ s.life ≠ .uninit ∨ op ≠ 0 ∧ s.life ≠ .ready) :
    dispatch op arg s = (s.emit (.cmd op arg)).respond .badState 0 := by
  rw [dispatch_idle op arg s h, if_neg h6]
  by_cases h0 : op = 0 ∧ s.life ≠ .uninit
  · rw [if_pos h0]
  · rw [if_neg h0, if_pos (hl.resolve_left h0)]

theorem dispatch_runs (op : BitVec 3) (arg : Word) (s : State) (h : s.busy = false) (h6 : ¬(op = 6 ∨ op = 7))
    (hl : op = 0 ∧ s.life = .uninit ∨ op ≠ 0 ∧ s.life = .ready) :
    dispatch op arg s = (((s.emit (.cmd op arg)).setRegs (s.regs.setArg arg)).setBusy true).setUpc (entry op) := by
  rw [dispatch_idle op arg s h, if_neg h6, if_neg (by rcases hl with ⟨h, h'⟩ | ⟨h, h'⟩ <;> simp_all),
    if_neg (by rcases hl with ⟨h, h'⟩ | ⟨h, h'⟩ <;> simp_all)]

/-- Everything dispatch can do while idle: run the command's program, or refuse it with `BAD_CMD` or `BAD_STATE`. -/
theorem dispatch_cases (op : BitVec 3) (arg : Word) (s : State) (h : s.busy = false) :
    ((op = 6 ∨ op = 7) ∧ dispatch op arg s = (s.emit (.cmd op arg)).respond .badCmd 0) ∨
    (¬(op = 6 ∨ op = 7) ∧ (op = 0 ∧ s.life ≠ .uninit ∨ op ≠ 0 ∧ s.life ≠ .ready) ∧
      dispatch op arg s = (s.emit (.cmd op arg)).respond .badState 0) ∨
    (¬(op = 6 ∨ op = 7) ∧ (op = 0 ∧ s.life = .uninit ∨ op ≠ 0 ∧ s.life = .ready) ∧
      dispatch op arg s = (((s.emit (.cmd op arg)).setRegs (s.regs.setArg arg)).setBusy true).setUpc (entry op)) := by
  by_cases h6 : op = 6 ∨ op = 7
  · exact .inl ⟨h6, dispatch_reserved op arg s h h6⟩
  · by_cases hl : op = 0 ∧ s.life = .uninit ∨ op ≠ 0 ∧ s.life = .ready
    · exact .inr (.inr ⟨h6, hl, dispatch_runs op arg s h h6 hl⟩)
    · have hl' : op = 0 ∧ s.life ≠ .uninit ∨ op ≠ 0 ∧ s.life ≠ .ready := by
        by_cases h0 : op = 0 <;> simp_all
      exact .inr (.inl ⟨h6, hl', dispatch_refused op arg s h h6 hl'⟩)

/-! ## Branches (R109) -/

theorem branch_eq (cond : Bool) (target : UAddr) (s : State) :
    branch cond target s = { s with upc := if cond then target else s.upc + 1 } := by
  cases cond <;> rfl

/-! ## Waiting (R103) -/

theorem waitTest_hold (ms : BitVec 16) (s : State) (h : (s.elapsed s.regs.t0.val).toNat < ms.toNat) :
    waitTest ms s = { s with held := true } := by simp [waitTest, h, State.setHeld]

theorem waitTest_done (ms : BitVec 16) (s : State) (h : ms.toNat ≤ (s.elapsed s.regs.t0.val).toNat) :
    waitTest ms s = { s with held := false, upc := s.upc + 1 } := by
  simp [waitTest, Nat.not_lt.mpr h, State.setHeld, State.advance, State.setUpc]

/-! ## Reset (R190, R192) -/

theorem hardReset_eq (s : State) :
    hardReset s = { s with
      life := .uninit, upc := 0, busy := false, csN := true, rspStatus := 0, rspData := 0, rspValid := false,
      regs := Regs.reset, held := false, bus := Bus.reset, frame := none,
      trace := if s.csN then s.trace else s.trace ++ [{ ev := .csh, time := s.env.now }] } := by
  unfold hardReset
  split <;> simp_all [State.releaseChip, State.setCsN, State.emit]

/-- A transfer cut after `n` bytes adds `CSL` and those bytes, and moves the bus only, with chip-select left low. -/
theorem cutTransfer_trace (s : State) (tx : List Byte) (n : Nat) :
    ∃ (rx : List Byte) (evs : Trace), rx = (exchangeAll s.selectChip (tx.take n)).1 ∧
      (cutTransfer s tx n).trace = s.trace ++ evs ∧ events evs = .csl :: byteEvents (tx.take n) rx := by
  obtain ⟨evs, h₁, h₂⟩ := exchangeAll_trace s.selectChip (tx.take n)
  exact ⟨_, { ev := .csl, time := s.env.now } :: evs, rfl, by simp [cutTransfer, h₁], by simpa [events] using h₂⟩

theorem cutTransfer_only_bus (s : State) (tx : List Byte) (n : Nat) : OnlyBusMoved (s.setCsN false) (cutTransfer s tx n) := by
  have h := exchangeAll_only_bus s.selectChip (tx.take n)
  rw [onlyBusMoved_iff] at *
  simp_all [cutTransfer]

/-- It draws the clock once before each byte and once before the reset. -/
theorem cutTransfer_now (s : State) (tx : List Byte) (n : Nat) (ds : List Word) (last : Word) (rest : List Word)
    (hl : ds.length = (tx.take n).length) (h : s.env.ticks = ds ++ last :: rest) :
    (cutTransfer s tx n).env.now = ds.foldl (· + ·) s.env.now + last := by
  obtain ⟨h₁, h₂⟩ := exchangeAll_ticks s.selectChip (tx.take n) ds (last :: rest) hl (by simpa using h)
  simp [cutTransfer, Env.tick_cons _ last rest h₁, h₂]

theorem resetStep_between (cut : Option Nat) (s : State) (h : cut = none ∨ pendingTransfer s = none) :
    resetStep cut s = hardReset (beginStep s) := by
  rcases h with rfl | h
  · rfl
  · cases cut <;> simp [resetStep, h]

theorem resetStep_inside (n : Nat) (s : State) (tx : List Byte) (h : pendingTransfer s = some tx) :
    resetStep (some n) s = hardReset (cutTransfer ((beginStep s).noteRead (pendingWritten s)) tx n) := by
  simp [resetStep, h]

/-! ## The step -/

theorem beginStep_eq (s : State) :
    beginStep s = { s with
      rspValid := false, frame := none, env := { s.env.tick with host := hostAfter s.ready s.env.host } } := rfl

/-- A step of the running sequencer is the meaning of the micro-op whose word stands at `UPC`. -/
theorem step_running (s : State) (w : UWord) (i : Instr) (reset : resetNext s = false) (noFrame : s.frame = none)
    (busy : s.busy = true) (read : s.rom.read s.upc.toNat = some w) (decoded : decodeUop w = .ok i) :
    step s = exec i (beginStep s) := by
  have hp : pendingWork s = .code (.uop w) := by simp [pendingWork, noFrame, busy, read]
  have hn : nextWork s = .code (.uop w) := by
    unfold nextWork
    unfold resetNext at reset
    split at reset <;> simp_all
  unfold step
  rw [hn]
  simp [decode, decoded]

/-- Everything one step can do: reset, stop at a hole of the ROM, do nothing, run the decoded instruction, or answer an
illegal code. -/
theorem step_cases (s : State) :
    (∃ cut, nextWork s = .reset cut ∧ step s = .next (resetStep cut s)) ∨
    (nextWork s = .hole ∧ step s = .fault .romHole) ∨
    (nextWork s = .quiet ∧ step s = .next (beginStep s)) ∨
    (∃ c i, nextWork s = .code c ∧ decode c = .ok i ∧ step s = exec i (beginStep s)) ∨
    (∃ c e, nextWork s = .code c ∧ decode c = .error e ∧ step s = illegalCode c (beginStep s)) := by
  unfold step
  cases h : nextWork s with
  | reset cut => exact .inl ⟨cut, rfl, rfl⟩
  | hole => exact .inr (.inl ⟨rfl, rfl⟩)
  | quiet => exact .inr (.inr (.inl ⟨rfl, rfl⟩))
  | code c =>
    cases hd : decode c with
    | ok i => exact .inr (.inr (.inr (.inl ⟨c, i, rfl, hd, by simp [hd]⟩)))
    | error e => exact .inr (.inr (.inr (.inr ⟨c, e, rfl, hd, by simp [hd]⟩)))

end Sys2Proof.Machine
end

