-- ==== Sys2Proof/Laws/PerInstr.lean ====
section
/-! SUPPORT. Per-instruction laws. `TableRow`: every well-formed instruction's encoding has, in the bits its row of the opcode
table fixes, the values the row gives them (30_encoding.md rules R61 to R63, R65, R69). -/

namespace Sys2Proof.Laws

/-- The bits of a code as the opcode table numbers them: a frame is one number, its first bit sent most significant. -/
def codeBits : Code → Nat
  | .uop w => w.toNat
  | .cmd w => w.toNat
  | .frame bytes => bytes.foldl (fun acc b => acc * 256 + b.toNat) 0

/-- A micro-op word whose bits under the mask are these. -/
def uopRow (mask pattern : UWord) : Code → Prop
  | .uop w => w &&& mask = pattern
  | .cmd _ => False
  | .frame _ => False

/-- A command word with this code in bits 34:32. -/
def cmdRow (op : Nat) : Code → Prop
  | .uop _ => False
  | .cmd w => w.toNat / 2 ^ 32 = op
  | .frame _ => False

namespace TableRow

/-- The row of the opcode table an instruction stands for: `match` and `mask`, as the table prints them. -/
def Statement (i : Instr) : Prop :=
  i.wellFormed = true →
    match i with
    | .wr _ _ => uopRow 0xFF8000 0x000000 (encode i)
    | .wait _ => uopRow 0xFF0000 0x100000 (encode i)
    | .rd _ _ => uopRow 0xF080FF 0x200000 (encode i)
    | .burst _ => uopRow 0xFF80FF 0x30000C (encode i)
    | .cslo => uopRow 0xFFFFFF 0x400000 (encode i)
    | .cshi => uopRow 0xFFFFFF 0x500000 (encode i)
    | .jmp _ => uopRow 0xFF0000 0x600000 (encode i)
    | .bb7 _ => uopRow 0xFF0000 0x610000 (encode i)
    | .bnz _ => uopRow 0xFF0000 0x620000 (encode i)
    | .bqok _ => uopRow 0xFF0000 0x630000 (encode i)
    | .bdrdy _ => uopRow 0xFF0000 0x640000 (encode i)
    | .btmo _ => uopRow 0xFF0000 0x650000 (encode i)
    | .bidbad _ => uopRow 0xFF0000 0x660000 (encode i)
    | .bargbad _ => uopRow 0xFF0000 0x670000 (encode i)
    | .xf1 => uopRow 0xFFFFFF 0x700000 (encode i)
    | .xf2 => uopRow 0xFFFFFF 0x800000 (encode i)
    | .wrr _ _ => uopRow 0xF080FF 0x900000 (encode i)
    | .tstamp => uopRow 0xFFFFFF 0xA00000 (encode i)
    | .omflg => uopRow 0xFFFFFF 0xB00000 (encode i)
    | .omrot => uopRow 0xFFFFFF 0xC00000 (encode i)
    | .endOp _ _ _ => uopRow 0xF00000 0xD00000 (encode i)
    | .init _ => cmdRow 0 (encode i)
    | .getId _ => cmdRow 1 (encode i)
    | .setRotation _ => cmdRow 2 (encode i)
    | .setOrientation _ => cmdRow 3 (encode i)
    | .getMotion _ => cmdRow 4 (encode i)
    | .getMotionSlow _ => cmdRow 5 (encode i)
    | .wFrame _ _ => codeBits (encode i) / 2 ^ 15 = 1
    | .rFrame _ => codeBits (encode i) / 2 ^ 15 = 0 ∧ codeBits (encode i) % 2 ^ 8 = 0
    | .bFrame => codeBits (encode i) = 0x16000000000000000000000000

theorem and0 {w : Nat} (v : BitVec w) : v &&& 0 = 0 := BitVec.and_zero

/-- The bits of a word of fields under a mask made of fields. -/
theorem fields_and (op x op' x' : BitVec 4) (a b a' b' : Byte) :
    UWord.ofFields op x a b &&& UWord.ofFields op' x' a' b' = UWord.ofFields (op &&& op') (x &&& x') (a &&& a') (b &&& b') := by
  unfold UWord.ofFields
  exact (BitVec.and_append (x₁ := op ++ x ++ a) (x₂ := op' ++ x' ++ a') (y₁ := b) (y₂ := b')).trans (by
    rw [BitVec.and_append, BitVec.and_append])

/-- The bits above a 16-bit immediate are the opcode and the selector. -/
theorem imm_row (op x : BitVec 4) (imm : BitVec 16) :
    UWord.ofImm op x imm &&& 0xFF0000 = UWord.ofImm op x 0 := by
  have h : (0xFF0000 : UWord) = UWord.ofImm (BitVec.allOnes 4) (BitVec.allOnes 4) 0 := by decide
  rw [h]
  unfold UWord.ofImm
  exact (BitVec.and_append (x₁ := op ++ x) (x₂ := BitVec.allOnes 4 ++ BitVec.allOnes 4) (y₁ := imm) (y₂ := 0)).trans (by
    rw [BitVec.and_append, BitVec.and_allOnes, BitVec.and_allOnes, and0])

/-- A word without operands equals its pattern. -/
theorem bare_row {w : UWord} (pattern : UWord) (h : w = pattern) : w &&& 0xFFFFFF = pattern := by
  subst h
  exact BitVec.and_allOnes

/-- A register operand has bit 7 clear. -/
theorem reg_and (reg : Byte) (h : regOk reg = true) : reg &&& 0x80 = 0 := by
  revert reg; decide

theorem wr (reg val : Byte) : Statement (.wr reg val) := fun h => by
  have h : regOk reg = true := h
  show UWord.ofFields 0x0 0 reg val &&& UWord.ofFields 0xF 0xF 0x80 0x00 = _
  rw [fields_and, reg_and reg h]; simp only [and0]; decide

theorem wait (ms : BitVec 16) : Statement (.wait ms) := fun _ => imm_row 0x1 0 ms

theorem rd (reg : Byte) (dst : Dst) : Statement (.rd reg dst) := fun h => by
  have h : regOk reg = true := h
  show UWord.ofFields 0x2 dst.code reg 0 &&& UWord.ofFields 0xF 0x0 0x80 0xFF = _
  rw [fields_and, reg_and reg h]; simp only [and0]; decide

theorem burst (reg : Byte) : Statement (.burst reg) := fun h => by
  have h : regOk reg = true := h
  show UWord.ofFields 0x3 0 reg 0x0C &&& UWord.ofFields 0xF 0xF 0x80 0xFF = _
  rw [fields_and, reg_and reg h]; decide

theorem cslo : Statement .cslo := fun _ => bare_row _ rfl
theorem cshi : Statement .cshi := fun _ => bare_row _ rfl
theorem jmp (target : UAddr) : Statement (.jmp target) := fun _ => imm_row 0x6 0 target
theorem bb7 (target : UAddr) : Statement (.bb7 target) := fun _ => imm_row 0x6 1 target
theorem bnz (target : UAddr) : Statement (.bnz target) := fun _ => imm_row 0x6 2 target
theorem bqok (target : UAddr) : Statement (.bqok target) := fun _ => imm_row 0x6 3 target
theorem bdrdy (target : UAddr) : Statement (.bdrdy target) := fun _ => imm_row 0x6 4 target
theorem btmo (target : UAddr) : Statement (.btmo target) := fun _ => imm_row 0x6 5 target
theorem bidbad (target : UAddr) : Statement (.bidbad target) := fun _ => imm_row 0x6 6 target
theorem bargbad (target : UAddr) : Statement (.bargbad target) := fun _ => imm_row 0x6 7 target
theorem xf1 : Statement .xf1 := fun _ => bare_row _ rfl
theorem xf2 : Statement .xf2 := fun _ => bare_row _ rfl

theorem wrr (reg : Byte) (src : Src) : Statement (.wrr reg src) := fun h => by
  have h : regOk reg = true := h
  show UWord.ofFields 0x9 src.code reg 0 &&& UWord.ofFields 0xF 0x0 0x80 0xFF = _
  rw [fields_and, reg_and reg h]; simp only [and0]; decide

theorem tstamp : Statement .tstamp := fun _ => bare_row _ rfl
theorem omflg : Statement .omflg := fun _ => bare_row _ rfl
theorem omrot : Statement .omrot := fun _ => bare_row _ rfl

theorem endOp (status : Status) (result : ResultSel) (next : NextSel) : Statement (.endOp status result next) := fun _ => by
  show UWord.ofFields 0xD next.code (status.code.setWidth 8) result.code &&& UWord.ofFields 0xF 0x0 0x00 0x00 = _
  rw [fields_and]; simp only [and0]; decide

theorem cmd_row (op : BitVec 3) (arg : Word) : (cmdWord op arg).toNat / 2 ^ 32 = op.toNat := by
  rw [toNat_cmdWord]; have := arg.isLt; omega

theorem init (arg : Word) : Statement (.init arg) := fun _ => cmd_row 0 arg
theorem getId (arg : Word) : Statement (.getId arg) := fun _ => cmd_row 1 arg
theorem setRotation (arg : Word) : Statement (.setRotation arg) := fun _ => cmd_row 2 arg
theorem setOrientation (arg : Word) : Statement (.setOrientation arg) := fun _ => cmd_row 3 arg
theorem getMotion (arg : Word) : Statement (.getMotion arg) := fun _ => cmd_row 4 arg
theorem getMotionSlow (arg : Word) : Statement (.getMotionSlow arg) := fun _ => cmd_row 5 arg

theorem marked_ge : ∀ reg : BitVec 7, 128 ≤ (reg.setWidth 8 ||| 0x80#8).toNat := by decide

theorem reg_lt : ∀ reg : BitVec 7, (reg.setWidth 8).toNat < 128 := by decide

theorem wFrame (reg : BitVec 7) (val : Byte) : Statement (.wFrame reg val) := fun _ => by
  have hr := marked_ge reg
  have hr' := (reg.setWidth 8 ||| 0x80#8).isLt
  have hv := val.isLt
  show ((0 * 256 + (reg.setWidth 8 ||| 0x80#8).toNat) * 256 + val.toNat) / 2 ^ 15 = 1
  omega

theorem rFrame (reg : BitVec 7) : Statement (.rFrame reg) := fun _ => by
  have hr := reg_lt reg
  show ((0 * 256 + (reg.setWidth 8).toNat) * 256 + 0) / 2 ^ 15 = 0 ∧ ((0 * 256 + (reg.setWidth 8).toNat) * 256 + 0) % 2 ^ 8 = 0
  omega

theorem bFrame : Statement .bFrame := fun _ => rfl

end TableRow

end Sys2Proof.Laws
end

