-- ==== Sys2Proof/Laws/Rom.lean ====
section
/-! SUPPORT. The micro-ROM's laws: reading what was written, the canonical form, and where the reference layout's words
lie. -/

namespace Sys2Proof.Machine

theorem Rom.read_write_same (m : Rom) (n : Nat) (w : UWord) : (m.write n w).read n = some w := by
  induction m with
  | nil => simp [Rom.write, Rom.read]
  | cons p rest ih =>
    obtain ⟨k, v⟩ := p
    simp only [Rom.write]
    split
    · simp [Rom.read]
    · split
      · simp [Rom.read]
      · next h => simp [Rom.read, h, ih]

theorem Rom.read_write_other (m : Rom) (n k : Nat) (w : UWord) (h : k ≠ n) : (m.write n w).read k = m.read k := by
  induction m with
  | nil => simp [Rom.write, Rom.read, h]
  | cons p rest ih =>
    obtain ⟨j, v⟩ := p
    simp only [Rom.write]
    split
    · simp [Rom.read, h]
    · split
      · next hj => simp [Rom.read, h, ← hj]
      · simp [Rom.read, ih]

theorem Rom.above_write (m : Rom) (j n : Nat) (w : UWord) (hj : j < n) (h : Rom.above j m = true) :
    Rom.above j (m.write n w) = true := by
  cases m with
  | nil => simpa [Rom.write, Rom.above] using hj
  | cons p rest =>
    obtain ⟨k, v⟩ := p
    simp only [Rom.above, decide_eq_true_eq] at h
    simp only [Rom.write]
    split
    · simpa [Rom.above] using hj
    · split
      · simpa [Rom.above] using hj
      · simpa [Rom.above] using h

/-- Writing keeps the canonical form. -/
theorem Rom.wf_write (m : Rom) (n : Nat) (w : UWord) (h : m.wf = true) : (m.write n w).wf = true := by
  induction m with
  | nil => rfl
  | cons p rest ih =>
    obtain ⟨k, v⟩ := p
    simp only [Rom.wf, Bool.and_eq_true] at h
    simp only [Rom.write]
    split
    · next hlt =>
      simp only [Rom.wf, Bool.and_eq_true]
      exact ⟨by simpa [Rom.above] using hlt, h.1, h.2⟩
    · split
      · next heq => subst heq; simp [Rom.wf, h.1, h.2]
      · next hlt hne =>
        have hk : k < n := by omega
        simp [Rom.wf, ih h.2, Rom.above_write rest k n w hk h.1]

theorem Rom.above_ofWordsFrom (j n : Nat) (ws : List UWord) (h : j < n) : Rom.above j (Rom.ofWordsFrom n ws) = true := by
  cases ws with
  | nil => rfl
  | cons w ws => simpa [Rom.ofWordsFrom, Rom.above] using h

theorem Rom.wf_ofWordsFrom (n : Nat) (ws : List UWord) : (Rom.ofWordsFrom n ws).wf = true := by
  induction ws generalizing n with
  | nil => rfl
  | cons w ws ih => simp [Rom.ofWordsFrom, Rom.wf, ih, Rom.above_ofWordsFrom n (n + 1) ws (by omega)]

/-- The ROM after reset is in canonical form, whatever `CALTAB` is. -/
theorem State.resetWith_rom_wf (t : CalTab) : (State.resetWith t).rom.wf = true := Rom.wf_ofWordsFrom 0 _

theorem Rom.read_ofWordsFrom (n : Nat) (ws : List UWord) (k : Nat) : (Rom.ofWordsFrom n ws).read (n + k) = ws[k]? := by
  induction ws generalizing n k with
  | nil => rfl
  | cons w ws ih =>
    cases k with
    | zero => simp [Rom.ofWordsFrom, Rom.read]
    | succ k =>
      have := ih (n + 1) k
      simp only [Rom.ofWordsFrom, Rom.read]
      rw [if_neg (by omega), show n + (k + 1) = n + 1 + k by omega, this]
      rfl

/-- The reference micro-ROM holds, at an index, the word of the micro-op the reference program has there. -/
theorem Rom.read_reference (t : CalTab) (k : Nat) : (Rom.reference t).read k = ((refProgram t)[k]?).map uword := by
  have := Rom.read_ofWordsFrom 0 (refWords t) k
  simpa [Rom.reference, refWords] using this

end Sys2Proof.Machine
end

