-- ==== Sys2Proof/Laws/Program.lean ====
section
/-! SUPPORT. Where each micro-op of the reference microprogram stands (R112), piece by piece, for any calibration table. -/

namespace Sys2Proof.Machine

@[simp] theorem wrStar_length (table : List CalEntry) : (wrStar table).length = table.length := by simp [wrStar]

theorem wrStar_getElem? (table : List CalEntry) (j : Nat) :
    (wrStar table)[j]? = table[j]?.map fun e => .wr e.reg e.val := by simp [wrStar]

/-- What stands at an offset into the middle one of three lists. -/
theorem getElem?_mid {α : Type} (pre mid post : List α) (n j : Nat) (h : pre.length = n) (hj : j < mid.length) :
    (pre ++ (mid ++ post))[n + j]? = mid[j]? := by
  subst h
  rw [List.getElem?_append_right (by omega), Nat.add_sub_cancel_left, List.getElem?_append_left hj]

section Positions
variable (t : CalTab)

theorem progFixed_length : progFixed.length = 0x27 := by decide

theorem refProgram_length : (refProgram t).length = CalTab.p4 t + 5 := by
  simp [refProgram, progFixed_length, progCalibration, progBranch1, progBranch2, progTail, progIdentity, rdFrom, CalTab.p4,
    CalTab.p3, CalTab.p2, CalTab.p1]
  omega

theorem refProgram_fixed (k : Nat) (h : k < 0x27) : (refProgram t)[k]? = progFixed[k]? := by
  rw [refProgram, List.getElem?_append_left (by rw [progFixed_length]; exact h)]

theorem refProgram_calA (j : Nat) (h : j < t.a.length) :
    (refProgram t)[0x27 + j]? = t.a[j]?.map fun e => .wr e.reg e.val := by
  rw [← wrStar_getElem?, refProgram, progCalibration]
  simp only [List.append_assoc]
  exact getElem?_mid _ _ _ _ _ progFixed_length (by simpa using h)

theorem refProgram_branch1 (j : Nat) (h : j < 5) : (refProgram t)[CalTab.p1 t + j]? = (progBranch1 t)[j]? := by
  rw [refProgram, progCalibration,
    show progFixed ++ (wrStar t.a ++ progBranch1 t ++ wrStar t.b ++ progBranch2 t ++ progTail t ++ progIdentity t) =
      (progFixed ++ wrStar t.a) ++ (progBranch1 t ++ (wrStar t.b ++ progBranch2 t ++ progTail t ++ progIdentity t)) by
        simp only [List.append_assoc]]
  exact getElem?_mid _ _ _ _ _ (by simp [progFixed_length, CalTab.p1]) h

theorem refProgram_calB (j : Nat) (h : j < t.b.length) :
    (refProgram t)[CalTab.p1 t + 5 + j]? = t.b[j]?.map fun e => .wr e.reg e.val := by
  rw [← wrStar_getElem?, refProgram, progCalibration,
    show progFixed ++ (wrStar t.a ++ progBranch1 t ++ wrStar t.b ++ progBranch2 t ++ progTail t ++ progIdentity t) =
      (progFixed ++ wrStar t.a ++ progBranch1 t) ++ (wrStar t.b ++ (progBranch2 t ++ progTail t ++ progIdentity t)) by
        simp only [List.append_assoc]]
  exact getElem?_mid _ _ _ _ _ (by simp [progFixed_length, CalTab.p1, progBranch1]; omega) (by simpa using h)

theorem refProgram_branch2 (j : Nat) (h : j < t.c.length + 8) : (refProgram t)[CalTab.p2 t + j]? = (progBranch2 t)[j]? := by
  rw [refProgram, progCalibration,
    show progFixed ++ (wrStar t.a ++ progBranch1 t ++ wrStar t.b ++ progBranch2 t ++ progTail t ++ progIdentity t) =
      (progFixed ++ wrStar t.a ++ progBranch1 t ++ wrStar t.b) ++ (progBranch2 t ++ (progTail t ++ progIdentity t)) by
        simp only [List.append_assoc]]
  exact getElem?_mid _ _ _ _ _ (by simp [progFixed_length, CalTab.p1, CalTab.p2, progBranch1]; omega)
    (by simp [progBranch2]; omega)

theorem refProgram_calC (j : Nat) (h : j < t.c.length) :
    (refProgram t)[CalTab.p2 t + 6 + j]? = t.c[j]?.map fun e => .wr e.reg e.val := by
  rw [Nat.add_assoc, refProgram_branch2 t _ (by omega), ← wrStar_getElem?, progBranch2, List.append_assoc]
  exact getElem?_mid _ _ _ 6 _ rfl (by simpa using h)

theorem refProgram_writeBack1 : (refProgram t)[CalTab.p2 t + 6 + t.c.length]? = some (.wrr 0x70 .c1) := by
  rw [Nat.add_assoc, refProgram_branch2 t _ (by omega), progBranch2]
  exact getElem?_mid (α := Instr) _ [.wrr 0x70 .c1, .wrr 0x71 .c2] [] (6 + t.c.length) 0 (by simp; omega) (by simp)

theorem refProgram_writeBack2 : (refProgram t)[CalTab.p2 t + 7 + t.c.length]? = some (.wrr 0x71 .c2) := by
  rw [Nat.add_assoc, refProgram_branch2 t _ (by omega), progBranch2]
  rw [show 7 + t.c.length = (6 + t.c.length) + 1 by omega]
  exact getElem?_mid (α := Instr) _ [.wrr 0x70 .c1, .wrr 0x71 .c2] [] (6 + t.c.length) 1 (by simp; omega) (by simp)

theorem refProgram_progTail (j : Nat) (h : j < (progTail t).length) : (refProgram t)[CalTab.p3 t + j]? = (progTail t)[j]? := by
  rw [refProgram, progCalibration,
    show progFixed ++ (wrStar t.a ++ progBranch1 t ++ wrStar t.b ++ progBranch2 t ++ progTail t ++ progIdentity t) =
      (progFixed ++ wrStar t.a ++ progBranch1 t ++ wrStar t.b ++ progBranch2 t) ++ (progTail t ++ progIdentity t) by
        simp only [List.append_assoc]]
  exact getElem?_mid _ _ _ _ _ (by simp [progFixed_length, CalTab.p1, CalTab.p2, CalTab.p3, progBranch1, progBranch2]; omega) h

theorem progTail_length : (progTail t).length = t.d1.length + t.d2.length + t.d3.length + 2 := by
  simp [progTail]; omega

theorem refProgram_calD1 (j : Nat) (h : j < t.d1.length) :
    (refProgram t)[CalTab.p3 t + j]? = t.d1[j]?.map fun e => .wr e.reg e.val := by
  rw [refProgram_progTail t _ (by rw [progTail_length]; omega), ← wrStar_getElem?, progTail]
  simp only [List.append_assoc]
  rw [List.getElem?_append_left (by simpa using h)]

theorem refProgram_waitCal1 : (refProgram t)[CalTab.p3 t + t.d1.length]? = some (.wait tCal1) := by
  rw [refProgram_progTail t _ (by rw [progTail_length]; omega), progTail]
  simp only [List.append_assoc]
  exact getElem?_mid (α := Instr) _ [.wait tCal1] _ _ 0 (by simp) (by simp)

theorem refProgram_calD2 (j : Nat) (h : j < t.d2.length) :
    (refProgram t)[CalTab.p3 t + t.d1.length + 1 + j]? = t.d2[j]?.map fun e => .wr e.reg e.val := by
  rw [Nat.add_assoc, Nat.add_assoc, refProgram_progTail t _ (by rw [progTail_length]; omega), ← wrStar_getElem?, progTail,
    show wrStar t.d1 ++ [.wait tCal1] ++ wrStar t.d2 ++ [.wait tCal2] ++ wrStar t.d3 =
      (wrStar t.d1 ++ [.wait tCal1]) ++ (wrStar t.d2 ++ ([.wait tCal2] ++ wrStar t.d3)) by simp only [List.append_assoc],
    ← Nat.add_assoc]
  exact getElem?_mid _ _ _ _ _ (by simp) (by simpa using h)

theorem refProgram_waitCal2 : (refProgram t)[CalTab.p3 t + t.d1.length + t.d2.length + 1]? = some (.wait tCal2) := by
  rw [Nat.add_assoc, Nat.add_assoc, refProgram_progTail t _ (by rw [progTail_length]; omega), progTail,
    show wrStar t.d1 ++ [.wait tCal1] ++ wrStar t.d2 ++ [.wait tCal2] ++ wrStar t.d3 =
      (wrStar t.d1 ++ [.wait tCal1] ++ wrStar t.d2) ++ ([.wait tCal2] ++ wrStar t.d3) by simp only [List.append_assoc]]
  exact getElem?_mid (α := Instr) _ [.wait tCal2] _ _ 0 (by simp; omega) (by simp)

theorem refProgram_calD3 (j : Nat) (h : j < t.d3.length) :
    (refProgram t)[CalTab.p3 t + t.d1.length + t.d2.length + 2 + j]? = t.d3[j]?.map fun e => .wr e.reg e.val := by
  rw [Nat.add_assoc, Nat.add_assoc, Nat.add_assoc, refProgram_progTail t _ (by rw [progTail_length]; omega),
    ← wrStar_getElem?, progTail,
    show wrStar t.d1 ++ [.wait tCal1] ++ wrStar t.d2 ++ [.wait tCal2] ++ wrStar t.d3 =
      (wrStar t.d1 ++ [.wait tCal1] ++ wrStar t.d2 ++ [.wait tCal2]) ++ (wrStar t.d3 ++ []) by simp,
    ← Nat.add_assoc, ← Nat.add_assoc]
  exact getElem?_mid _ _ _ _ _ (by simp; omega) (by simpa using h)

theorem refProgram_identity (j : Nat) (h : j < 5) : (refProgram t)[CalTab.p4 t + j]? = (progIdentity t)[j]? := by
  rw [refProgram, show progFixed ++ (progCalibration t ++ progIdentity t) =
    (progFixed ++ progCalibration t) ++ (progIdentity t ++ []) by simp]
  exact getElem?_mid _ _ _ _ _ (by simp [progFixed_length, progCalibration, progBranch1, progBranch2, progTail, CalTab.p1,
    CalTab.p2, CalTab.p3, CalTab.p4]; omega) h

/-- The block's own `CALTAB` meets R120. -/
theorem calTab_valid : CalTab.valid Config.calTab = true := by
  unfold Config.calTab
  split
  · assumption
  · decide

/-- Every index of the program lies in one of its pieces. -/
theorem index_cases (k : Nat) (h : k < CalTab.p4 t + 5) :
    k < 0x27 ∨ (∃ j, j < t.a.length ∧ k = 0x27 + j) ∨ (∃ j, j < 5 ∧ k = CalTab.p1 t + j) ∨
    (∃ j, j < t.b.length ∧ k = CalTab.p1 t + 5 + j) ∨ (∃ j, j < 6 ∧ k = CalTab.p2 t + j) ∨
    (∃ j, j < t.c.length ∧ k = CalTab.p2 t + 6 + j) ∨ k = CalTab.p2 t + 6 + t.c.length ∨
    k = CalTab.p2 t + 7 + t.c.length ∨ (∃ j, j < t.d1.length ∧ k = CalTab.p3 t + j) ∨ k = CalTab.p3 t + t.d1.length ∨
    (∃ j, j < t.d2.length ∧ k = CalTab.p3 t + t.d1.length + 1 + j) ∨ k = CalTab.p3 t + t.d1.length + t.d2.length + 1 ∨
    (∃ j, j < t.d3.length ∧ k = CalTab.p3 t + t.d1.length + t.d2.length + 2 + j) ∨
    (∃ j, j < 5 ∧ k = CalTab.p4 t + j) := by
  have e1 : CalTab.p1 t = 0x27 + t.a.length := rfl
  have e2 : CalTab.p2 t = CalTab.p1 t + 5 + t.b.length := rfl
  have e3 : CalTab.p3 t = CalTab.p2 t + 8 + t.c.length := rfl
  have e4 : CalTab.p4 t = CalTab.p3 t + t.d1.length + t.d2.length + t.d3.length + 2 := rfl
  have piece (p n : Nat) (h₁ : p ≤ k) (h₂ : k < p + n) : ∃ j, j < n ∧ k = p + j := ⟨k - p, by omega, by omega⟩
  by_cases h0 : k < 0x27
  · exact .inl h0
  by_cases h1 : k < CalTab.p1 t
  · exact .inr (.inl (piece _ _ (by omega) (by omega)))
  by_cases h2 : k < CalTab.p1 t + 5
  · exact .inr (.inr (.inl (piece _ _ (by omega) (by omega))))
  by_cases h3 : k < CalTab.p2 t
  · exact .inr (.inr (.inr (.inl (piece _ _ (by omega) (by omega)))))
  by_cases h4 : k < CalTab.p2 t + 6
  · exact .inr (.inr (.inr (.inr (.inl (piece _ _ (by omega) (by omega))))))
  by_cases h5 : k < CalTab.p2 t + 6 + t.c.length
  · exact .inr (.inr (.inr (.inr (.inr (.inl (piece _ _ (by omega) (by omega)))))))
  by_cases h6 : k < CalTab.p3 t
  · have : k = CalTab.p2 t + 6 + t.c.length ∨ k = CalTab.p2 t + 7 + t.c.length := by omega
    tauto
  by_cases h7 : k < CalTab.p3 t + t.d1.length
  · have := piece (CalTab.p3 t) t.d1.length (by omega) (by omega)
    simp only [this, true_or, or_true]
  by_cases h8 : k = CalTab.p3 t + t.d1.length
  · simp only [‹k = _›, true_or, or_true]
  by_cases h9 : k < CalTab.p3 t + t.d1.length + 1 + t.d2.length
  · have := piece (CalTab.p3 t + t.d1.length + 1) t.d2.length (by omega) (by omega)
    simp only [this, true_or, or_true]
  by_cases h10 : k = CalTab.p3 t + t.d1.length + t.d2.length + 1
  · simp only [‹k = _›, true_or, or_true]
  by_cases h11 : k < CalTab.p4 t
  · have := piece (CalTab.p3 t + t.d1.length + t.d2.length + 2) t.d3.length (by omega) (by omega)
    simp only [this, true_or, or_true]
  have := piece (CalTab.p4 t) 5 (by omega) (by omega)
  simp only [this, or_true]

end Positions

end Sys2Proof.Machine
end

