-- ==== Sys2Proof/Laws/Reference.lean ====
section
/-! SUPPORT. How what is known at one index of the reference program carries to the next: a micro-op gives `AtIndex` at the
index it goes to when the registers that index asks for were already asked for here, or are now written. -/

namespace Sys2Proof.Safety

open Sys2Proof.Machine

/-- No register written before has become unwritten. -/
def StaysWritten (s t : State) : Prop :=
  (s.regs.om.written = true → t.regs.om.written = true) ∧ (s.regs.tstart.written = true → t.regs.tstart.written = true) ∧
  (s.regs.fb.written = true → t.regs.fb.written = true) ∧
  (∀ j : Fin 5, (s.regs.pb[j.val]).written = true → (t.regs.pb[j.val]).written = true) ∧
  (s.regs.rb.written = true → t.regs.rb.written = true) ∧ (s.regs.c1.written = true → t.regs.c1.written = true) ∧
  (s.regs.c2.written = true → t.regs.c2.written = true) ∧ (s.regs.pidr.written = true → t.regs.pidr.written = true) ∧
  (s.regs.revr.written = true → t.regs.revr.written = true)

theorem staysWritten_of_regs_eq {s t : State} (h : t.regs = s.regs) : StaysWritten s t := by simp [StaysWritten, h]

/-- From index `k` to index `k'` of the program, no wait being in progress after the step. -/
theorem atIndex_move {tab : CalTab} {s t : State} {k k' : Nat} (at_k : AtIndex tab k s)
    (life : t.life = s.life) (held : t.held = false) (arg : t.regs.arg = s.regs.arg) (stays : StaysWritten s t)
    (inside : k' < CalTab.p4 tab + 5) (sameHalf : k < 0x1D ↔ k' < 0x1D) (chip : t.csN = !(k' == 0x1E || k' == 0x1F))
    (rotation : k' ≠ 5 ∨ rotationMask s.regs.arg.val ≠ none)
    (mask : k' = 2 ∨ k' = 6 → (k = 2 ∨ k = 6) ∨ t.regs.om.written = true)
    (start : 0x0A ≤ k' ∧ k' ≤ 0x0E ∨ 0x12 ≤ k' ∧ k' ≤ 0x1A →
      (0x0A ≤ k ∧ k ≤ 0x0E ∨ 0x12 ≤ k ∧ k ≤ 0x1A) ∨ t.regs.tstart.written = true)
    (burst : k' = 0x0C ∨ k' = 0x0F → (k = 0x0C ∨ k = 0x0F) ∨ t.regs.fb.written = true)
    (poll : ∀ j : Fin 5, 0x14 + j.val ≤ k' ∧ k' ≤ 0x1B →
      (0x14 + j.val ≤ k ∧ k ≤ 0x1B) ∨ (t.regs.pb[j.val]).written = true)
    (readback : k' = CalTab.p1 tab + 1 ∨ k' = CalTab.p2 tab + 1 →
      (k = CalTab.p1 tab + 1 ∨ k = CalTab.p2 tab + 1) ∨ t.regs.rb.written = true)
    (c1 : CalTab.p2 tab + 3 ≤ k' ∧ k' < CalTab.p3 tab →
      (CalTab.p2 tab + 3 ≤ k ∧ k < CalTab.p3 tab) ∨ t.regs.c1.written = true)
    (c2 : CalTab.p2 tab + 4 ≤ k' ∧ k' < CalTab.p3 tab →
      (CalTab.p2 tab + 4 ≤ k ∧ k < CalTab.p3 tab) ∨ t.regs.c2.written = true)
    (product : CalTab.p4 tab + 1 ≤ k' → CalTab.p4 tab + 1 ≤ k ∨ t.regs.pidr.written = true)
    (revision : CalTab.p4 tab + 2 ≤ k' → CalTab.p4 tab + 2 ≤ k ∨ t.regs.revr.written = true)
    (identity : k' ≠ CalTab.p4 tab + 3 ∨ (t.regs.pidr.val, t.regs.revr.val) = idExpect) : AtIndex tab k' t := by
  obtain ⟨m1, m2, m3, m4, m5, m6, m7, m8, m9⟩ := stays
  exact {
    inside := inside
    life := by rw [life, at_k.life]; simp only [sameHalf]
    chipSelect := chip
    held := by simp [held]
    arg := by rw [arg]; exact at_k.arg
    rotation := fun h => by rw [arg]; exact rotation.resolve_left (by simp [h])
    mask := fun h => (mask h).elim (fun h => m1 (at_k.mask h)) id
    start := fun h => (start h).elim (fun h => m2 (at_k.start h)) id
    burst := fun h => (burst h).elim (fun h => m3 (at_k.burst h)) id
    poll := fun j h => (poll j h).elim (fun h => m4 j (at_k.poll j h)) id
    readback := fun h => (readback h).elim (fun h => m5 (at_k.readback h)) id
    c1 := fun h => (c1 h).elim (fun h => m6 (at_k.c1 h)) id
    c2 := fun h => (c2 h).elim (fun h => m7 (at_k.c2 h)) id
    product := fun h => (product h).elim (fun h => m8 (at_k.product h)) id
    revision := fun h => (revision h).elim (fun h => m9 (at_k.revision h)) id
    identity := fun h => identity.resolve_left (by simp [h]) }

/-- A step of the running program that keeps the lifecycle state meets the invariant at the index it reaches. -/
theorem reference_of_atIndex {tab : CalTab} {s t : State} (ref : Reference tab s) (busy : t.busy = true)
    (same : t.rom = s.rom ∧ t.frame = s.frame ∧ t.undefRead = s.undefRead ∧ t.rspStatus = s.rspStatus ∧ t.life = s.life)
    (identity : (t.regs.pidr = s.regs.pidr ∧ t.regs.revr = s.regs.revr) ∨ s.life ≠ .ready)
    (at_upc : AtIndex tab t.upc.toNat t) : Reference tab t := by
  obtain ⟨h1, h2, h3, h4, h5⟩ := same
  refine ⟨h1.trans ref.rom, h2.trans ref.noFrame, h3.trans ref.noUndefRead, h4 ▸ ref.status, fun hl => ?_, by simp [busy],
    fun _ => at_upc⟩
  rcases identity with ⟨hp, hr⟩ | hn
  · rw [hp, hr]; exact ref.identity (h5 ▸ hl)
  · exact absurd (h5 ▸ hl) hn

end Sys2Proof.Safety
end

