-- ==== Sys2Proof/Laws/Serial.lean ====
section
/-! SUPPORT. The bit-serial exchange of R86: eight pulses shift the chip's answer into the receive register, whatever the
clock mode. -/

namespace Sys2Proof.Machine

/-- What one pulse leaves, in every mode. -/
theorem Bus.pulse_eq (mode : SpiMode) (b : Bus) (level : Bool) :
    b.pulse mode level =
      { sclk := idleLevel mode, mosi := b.txShift.msb, miso := level, txShift := b.txShift <<< 1,
        rxShift := b.rxShift.shiftConcat level, bitCount := b.bitCount - 1 } := by
  cases mode <;> rfl

theorem shiftConcat_wireBits (r v : Byte) :
    (wireBits v).foldl (fun acc level => acc.shiftConcat level) r = v := by
  simp only [wireBits, List.foldl]
  apply BitVec.eq_of_getLsbD_eq
  intro i hi
  have : i = 0 ∨ i = 1 ∨ i = 2 ∨ i = 3 ∨ i = 4 ∨ i = 5 ∨ i = 6 ∨ i = 7 := by omega
  rcases this with h | h | h | h | h | h | h | h <;> subst h <;> simp

theorem Bus.pulses_rxShift (mode : SpiMode) (b : Bus) (levels : List Bool) :
    (b.pulses mode levels).rxShift = levels.foldl (fun acc level => acc.shiftConcat level) b.rxShift := by
  induction levels generalizing b with
  | nil => rfl
  | cons level rest ih => simp [Bus.pulses, ih, Bus.pulse_eq]

/-- The receive shift register holds the chip's answer after the byte, in every mode. -/
theorem Bus.exchange_rxShift (mode : SpiMode) (b : Bus) (tx answer : Byte) :
    (b.exchange mode tx answer).rxShift = answer := by
  rw [Bus.exchange, Bus.pulses_rxShift, shiftConcat_wireBits]

end Sys2Proof.Machine
end

