-- ==== Sys2Proof/Tests/Slice0.lean ====
section
/-! SUPPORT. Tests of the model's own: the WellFormed smoke, words written out from the spec's encodings, one-step runs with
results from 95_test_vectors.md, and for each obligation with hypotheses a state and operands that meet them. -/

namespace Sys2Proof.Tests

open Sys2Proof.Machine Sys2Proof.Safety

/-! ## WellFormed smoke: each check refuses an ill-formed term (R69, R72, R77) -/

theorem test_wellFormed_wr : (Instr.wr 0x7F 0xFF).wellFormed = true ∧ (Instr.wr 0x80 0x00).wellFormed = false := by decide
theorem test_wellFormed_rd : (Instr.rd 0x00 (.pb 4)).wellFormed = true ∧ (Instr.rd 0x82 .discard).wellFormed = false := by
  decide
theorem test_wellFormed_burst : (Instr.burst 0x16).wellFormed = true ∧ (Instr.burst 0x96).wellFormed = false := by decide
theorem test_wellFormed_wrr : (Instr.wrr 0x5B .om).wellFormed = true ∧ (Instr.wrr 0xDB .om).wellFormed = false := by decide
theorem test_wellFormed_end :
    (Instr.endOp .invalidArg .polled .failed).wellFormed = true ∧ (Instr.endOp .badState .none .keep).wellFormed = false ∧
    (Instr.endOp .ufault .none .keep).wellFormed = false ∧ (Instr.endOp .badCmd .none .keep).wellFormed = false := by decide

/-! ## Decoding: words written out from the spec's encodings, one at least per constructor -/

/-- V-W1, V-W4, V-W5. -/
theorem test_decode_wr : decode (.uop 0x003A5A) = .ok (.wr 0x3A 0x5A) ∧ decode (.uop 0x000000) = .ok (.wr 0x00 0x00) ∧
    decode (.uop 0x007FFF) = .ok (.wr 0x7F 0xFF) := by decide
/-- V-T1, V-T4. -/
theorem test_decode_wait : decode (.uop 0x100032) = .ok (.wait 50) ∧ decode (.uop 0x10FFFF) = .ok (.wait 65535) := by decide
/-- V-R1 to V-R5, and `PB0` to `PB3` by R70. -/
theorem test_decode_rd : decode (.uop 0x206700) = .ok (.rd 0x67 .discard) ∧ decode (.uop 0x217000) = .ok (.rd 0x70 .c1) ∧
    decode (.uop 0x227100) = .ok (.rd 0x71 .c2) ∧ decode (.uop 0x230000) = .ok (.rd 0x00 .pidr) ∧
    decode (.uop 0x240100) = .ok (.rd 0x01 .revr) ∧ decode (.uop 0x280200) = .ok (.rd 0x02 (.pb 0)) ∧
    decode (.uop 0x290300) = .ok (.rd 0x03 (.pb 1)) ∧ decode (.uop 0x2A0400) = .ok (.rd 0x04 (.pb 2)) ∧
    decode (.uop 0x2B0500) = .ok (.rd 0x05 (.pb 3)) ∧ decode (.uop 0x2C0600) = .ok (.rd 0x06 (.pb 4)) := by decide
/-- V-B1. -/
theorem test_decode_burst : decode (.uop 0x30160C) = .ok (.burst 0x16) := by decide
/-- V-C1, V-C2. -/
theorem test_decode_chip_select : decode (.uop 0x400000) = .ok .cslo ∧ decode (.uop 0x500000) = .ok .cshi := by decide
/-- Section 2.4: the eight branches with target 0x0123. -/
theorem test_decode_branches : decode (.uop 0x600123) = .ok (.jmp 0x0123) ∧ decode (.uop 0x610123) = .ok (.bb7 0x0123) ∧
    decode (.uop 0x620123) = .ok (.bnz 0x0123) ∧ decode (.uop 0x630123) = .ok (.bqok 0x0123) ∧
    decode (.uop 0x640123) = .ok (.bdrdy 0x0123) ∧ decode (.uop 0x650123) = .ok (.btmo 0x0123) ∧
    decode (.uop 0x660123) = .ok (.bidbad 0x0123) ∧ decode (.uop 0x670123) = .ok (.bargbad 0x0123) := by decide
/-- R107, R108, R150, R140, R141. -/
theorem test_decode_bare : decode (.uop 0x700000) = .ok .xf1 ∧ decode (.uop 0x800000) = .ok .xf2 ∧
    decode (.uop 0xA00000) = .ok .tstamp ∧ decode (.uop 0xB00000) = .ok .omflg ∧ decode (.uop 0xC00000) = .ok .omrot := by
  decide
/-- V-W6 to V-W8. -/
theorem test_decode_wrr : decode (.uop 0x955B00) = .ok (.wrr 0x5B .om) ∧ decode (.uop 0x917000) = .ok (.wrr 0x70 .c1) ∧
    decode (.uop 0x927100) = .ok (.wrr 0x71 .c2) := by decide
/-- V-E1 to V-E8. -/
theorem test_decode_end : decode (.uop 0xD00001) = .ok (.endOp .ok .id .keep) ∧
    decode (.uop 0xD00002) = .ok (.endOp .ok .burst .keep) ∧ decode (.uop 0xD00003) = .ok (.endOp .ok .polled .keep) ∧
    decode (.uop 0xD00300) = .ok (.endOp .invalidArg .none .keep) ∧
    decode (.uop 0xD10000) = .ok (.endOp .ok .none .ready) ∧
    decode (.uop 0xD20100) = .ok (.endOp .initError .none .failed) ∧
    decode (.uop 0xD00202) = .ok (.endOp .timeout .burst .keep) := by decide
/-- Section 2.8: command words. -/
theorem test_decode_commands : decode (.cmd 0x000000000) = .ok (.init 0) ∧ decode (.cmd 0x100000000) = .ok (.getId 0) ∧
    decode (.cmd 0x20000010E) = .ok (.setRotation 270) ∧ decode (.cmd 0x300000005) = .ok (.setOrientation 0b101) ∧
    decode (.cmd 0x4000003E8) = .ok (.getMotion 1000) ∧ decode (.cmd 0x500000032) = .ok (.getMotionSlow 50) := by decide
/-- Sections 2.1 and R61 to R63: the three frames. -/
theorem test_decode_frames : decode (.frame [0xC8, 0x04]) = .ok (.wFrame 0x48 0x04) ∧
    decode (.frame [0x67, 0x00]) = .ok (.rFrame 0x67) ∧ decode (.frame [0x16, 0x00]) = .ok (.rFrame 0x16) ∧
    decode (.frame [0x16, 0, 0, 0, 0, 0, 0, 0, 0, 0, 0, 0, 0]) = .ok .bFrame := by decide

/-- V-X1 to V-X3, V-J27, V-E9, and R77's other illegal words, each refused by its name. -/
theorem test_decode_rejects : decode (.uop 0x008000) = .error .addressBit7Set ∧
    decode (.uop 0x30160D) = .error .burstCountNot12 ∧ decode (.uop 0x250200) = .error .reservedDst ∧
    decode (.uop 0x680123) = .error .reservedCondition ∧ decode (.uop 0xD00400) = .error .reservedStatus ∧
    decode (.uop 0xD00004) = .error .reservedResult ∧ decode (.uop 0xD30000) = .error .reservedNext ∧
    decode (.uop 0xE00000) = .error .reservedOpcode ∧ decode (.uop 0x935B00) = .error .reservedSrc ∧
    decode (.uop 0x400001) = .error .unusedFieldSet ∧ decode (.cmd 0x600000000) = .error .reservedCommand ∧
    decode (.frame [0x16]) = .error .notAFrame := by decide

/-- The opcode table's numbering: micro-op words, 35-bit command words, frames with the first bit most significant. -/
theorem test_decodeTableWord : decodeTableWord 24 0x30000C = some (.burst 0x00) ∧
    decodeTableWord 40 0x700000000 = none ∧ decodeTableWord 40 0x500000001 = some (.getMotionSlow 1) ∧
    decodeTableWord 16 0x8000 = some (.wFrame 0x00 0x00) ∧ decodeTableWord 16 0x7F00 = some (.rFrame 0x7F) ∧
    decodeTableWord 104 0x16000000000000000000000000 = some .bFrame := by decide

/-! ## The states the tests start from -/

/-- `CALTAB_TEST` of 95_test_vectors.md section 3. -/
def calTabTest : CalTab where
  a := [⟨0x10, 0xA1⟩, ⟨0x11, 0xA2⟩, ⟨0x12, 0xA3⟩, ⟨0x13, 0xA4⟩]
  b := [⟨0x20, 0xB1⟩, ⟨0x21, 0xB2⟩, ⟨0x22, 0xB3⟩]
  c := [⟨0x30, 0xC1⟩]
  d1 := [⟨0x40, 0xD1⟩, ⟨0x41, 0xD2⟩]
  d2 := [⟨0x42, 0xD3⟩]
  d3 := [⟨0x43, 0xD4⟩, ⟨0x44, 0xD5⟩]

/-- Just after reset, `now_ms = 1000`, with these clock advances, chip answers and host inputs to come. -/
def fresh (ticks : List Word) (chip : List Byte) (host : List HostInput) : State :=
  { State.resetWith calTabTest with env := { now := 1000, ticks := ticks, draws := 0, chip := chip, host := host } }

/-- The same after a passed INIT. -/
def ready (ticks : List Word) (chip : List Byte) (host : List HostInput) : State :=
  { fresh ticks chip host with
    life := .ready, regs := { Regs.reset with pidr := Cell.of 0x49, revr := Cell.of 0x00 } }

/-- The sequencer about to execute the micro-op at an index, `ARG` latched. -/
def runningAt (upc : UAddr) (arg : Word) (s : State) : State :=
  { s with busy := true, upc := upc, regs := { s.regs with arg := Cell.of arg } }

/-- A state with every clock advance zero and these answers, at index 4, for one micro-op. -/
def base (chip : List Byte) : State := runningAt 4 0 (ready [0, 0, 0, 0, 0, 0, 0, 0, 0, 0, 0, 0, 0, 0, 0, 0] chip [])

/-- Something of the next state, if there is one. -/
def seen {α : Type} (r : Result) (f : State → α) : Option α :=
  match r with
  | .next t => some (f t)
  | .fault _ => none
  | .refused _ => none

/-- The events a step added to an empty trace. -/
def traceOf (r : Result) : Option (List Event) := seen r fun t => events t.trace

/-! ## One step at a time -/

/-- V-W1. -/
theorem test_wr_frame : traceOf (exec (.wr 0x3A 0x5A) (base [0x11, 0x22])) =
    some [.csl, .byte 0xBA 0x11, .byte 0x5A 0x22, .csh] := by decide
/-- V-C5: a transfer begun with chip-select low. -/
theorem test_wr_ufault : traceOf (exec (.wr 0x3A 0x5A) { base [] with csN := false }) = some [.csh, .rsp 5 0] := by decide
/-- V-W7, V-W8. -/
theorem test_wrr_frames :
    traceOf (exec (.wrr 0x70 .c1) { base [0, 0] with regs := { Regs.reset with c1 := Cell.of 0x2D } }) =
      some [.csl, .byte 0xF0 0, .byte 0x2D 0, .csh] ∧
    traceOf (exec (.wrr 0x71 .c2) { base [0, 0] with regs := { Regs.reset with c2 := Cell.of 0x16 } }) =
      some [.csl, .byte 0xF1 0, .byte 0x16 0, .csh] := by decide
/-- V-R6: the echo byte reaches nothing. -/
theorem test_rd_second_byte : seen (exec (.rd 0x02 .discard) (base [0xAA, 0x55])) (fun t => (t.regs.rb, t.regs.c1.written)) =
    some (Cell.of 0x55, false) := by decide
/-- V-R5. -/
theorem test_rd_pb4 : seen (exec (.rd 0x06 (.pb 4)) (base [0, 0x7E])) (fun t => (t.regs.rb.val, t.regs.pb[4], t.regs.pb[3])) =
    some (0x7E, Cell.of 0x7E, Cell.reset) := by decide
/-- R95's example: the fields of the frame, and `RB` unchanged. -/
theorem test_burst_fields :
    seen (exec (.burst 0x16) (base [0x00, 0xB0, 0x00, 0x05, 0x00, 0xFE, 0xFF, 0x20, 0x50, 0x60, 0x10, 0x1F, 0x00]))
      (fun t => (parseBurst t.regs.fb.val, t.regs.rb.written)) =
    some (BurstFields.mk 0x00 0xB0 0x00 5 (-2) 0x20 0x50 0x60 0x10 0x1F 0x00, false) := by decide
/-- V-C1 and V-C3. -/
theorem test_cslo : traceOf (exec .cslo (base [])) = some [.csl] ∧
    traceOf (exec .cslo { base [] with csN := false }) = some [.csh, .rsp 5 0] := by decide
/-- V-C2 and V-C4. -/
theorem test_cshi : traceOf (exec .cshi { base [] with csN := false }) = some [.csh] ∧
    traceOf (exec .cshi (base [])) = some [.rsp 5 0] := by decide
/-- V-J1: the target is the whole 16-bit immediate. -/
theorem test_jmp : seen (exec (.jmp 0xFFFE) (base [])) (·.upc) = some 0xFFFE := by decide
/-- V-J2 to V-J5. -/
theorem test_bb7 : [0x80#8, 0xFF#8, 0x7F#8, 0x00#8].map (fun v =>
    seen (exec (.bb7 0x0123) { base [] with regs := Regs.reset.setRb v }) (·.upc)) =
    [some 0x0123, some 0x0123, some 0x0005, some 0x0005] := by decide
/-- V-J6 to V-J8. -/
theorem test_bnz : [0x00#8, 0x01#8, 0x80#8].map (fun v =>
    seen (exec (.bnz 0x0123) { base [] with regs := Regs.reset.setRb v }) (·.upc)) =
    [some 0x0005, some 0x0123, some 0x0123] := by decide
/-- V-J9 to V-J12. -/
theorem test_bqok : [0x19#8, 0x1A#8, 0x00#8, 0xFF#8].map (fun q =>
    seen (exec (.bqok 0x0123) { base [] with regs := Regs.reset.setFb #v[0, 0x80, 0, 0, 0, 0, 0, q, 0, 0, 0, 0, 0] }) (·.upc)) =
    [some 0x0005, some 0x0123, some 0x0005, some 0x0123] := by decide
/-- V-J13 to V-J15. -/
theorem test_bdrdy : [0x80#8, 0x7F#8, 0xFF#8].map (fun v =>
    seen (exec (.bdrdy 0x0123) { base [] with regs := Regs.reset.setPb 0 v }) (·.upc)) =
    [some 0x0123, some 0x0005, some 0x0123] := by decide
/-- V-J16, V-J17, V-J19, V-J20: at the timeout, and across the wrap of `now_ms`. -/
theorem test_btmo : [(5000#32, 100#32, 5099#32), (5000, 100, 5100), (0xFFFFFFF0, 32, 0x0000000F),
      (0xFFFFFFF0, 32, 0x00000010)].map (fun v =>
    seen (exec (.btmo 0x0123) { base [] with
      regs := (Regs.reset.setTstart v.1).setArg v.2.1, env := { (base []).env with now := v.2.2 } }) (·.upc)) =
    [some 0x0005, some 0x0123, some 0x0005, some 0x0123] := by decide
/-- V-J21 to V-J24. -/
theorem test_bidbad : [(0x49#8, 0x00#8), (0x49, 0x01), (0x48, 0x00), (0x00, 0x49)].map (fun v =>
    seen (exec (.bidbad 0x0123) { base [] with regs := (Regs.reset.setPidr v.1).setRevr v.2 }) (·.upc)) =
    [some 0x0005, some 0x0123, some 0x0123, some 0x0123] := by decide
/-- V-J25, V-J26. -/
theorem test_bargbad : [0#32, 90, 180, 270, 45, 1, 360, 0xFFFFFFA6, 0x0001005A].map (fun v =>
    seen (exec (.bargbad 0x0123) { base [] with regs := Regs.reset.setArg v }) (·.upc)) =
    [some 0x0005, some 0x0005, some 0x0005, some 0x0005, some 0x0123, some 0x0123, some 0x0123, some 0x0123,
      some 0x0123] := by decide
/-- Section 2.5: every boundary of `XF1`. -/
theorem test_xf1 : [0#8, 10, 14, 15, 20, 28, 29, 30, 52, 53, 63, 255].map (fun v =>
    seen (exec .xf1 { base [] with regs := Regs.reset.setC1 v }) (·.regs.c1.val)) =
    [some 14, some 24, some 28, some 40, some 45, some 53, some 40, some 41, some 63, some 63, some 63, some 63] := by decide
/-- Section 2.5: `XF2`. -/
theorem test_xf2 : [0#8, 1, 2, 3, 22, 50, 99, 100, 200, 255].map (fun v =>
    seen (exec .xf2 { base [] with regs := Regs.reset.setC2 v }) (·.regs.c2.val)) =
    [some 0, some 0, some 0, some 1, some 9, some 22, some 44, some 45, some 90, some 114] := by decide
/-- R150's example. -/
theorem test_tstamp : seen (exec .tstamp { base [] with env := { (base []).env with now := 5000 } }) (·.regs.tstart) =
    some (Cell.of 5000) := by decide
/-- R140's rows 001, 010, 100, and section 2.6: the upper bits of `ARG` are ignored. -/
theorem test_omflg : [1#32, 2, 4, 0xFFFFFFF8, 0xFFFFFFFF].map (fun v =>
    seen (exec .omflg { base [] with regs := Regs.reset.setArg v }) (·.regs.om.val)) =
    [some 0x20, some 0x40, some 0x80, some 0x00, some 0xE0] := by decide
/-- R141's table. -/
theorem test_omrot : [0#32, 90, 180, 270].map (fun v =>
    seen (exec .omrot { base [] with regs := Regs.reset.setArg v }) (·.regs.om.val)) =
    [some 0xE0, some 0x40, some 0x80, some 0x20] := by decide
/-- Section 2.6: 360 degrees. -/
theorem test_omrot_ufault : traceOf (exec .omrot { base [] with regs := Regs.reset.setArg 360 }) = some [.rsp 5 0] := by decide
/-- V-E2 and V-E7. -/
theorem test_end : traceOf (exec (.endOp .ok .burst .keep)
      { base [] with regs := Regs.reset.setFb #v[0, 0, 0, 0x05, 0x00, 0xFE, 0xFF, 0, 0, 0, 0, 0, 0] }) =
      some [.rsp 0 0xFFFE0005] ∧
    seen (exec (.endOp .initError .none .failed) { base [] with life := .uninit }) (fun t => (t.life, t.rspStatus, t.busy)) =
      some (.failed, 1, false) := by decide
/-- V-E8, V-C6. -/
theorem test_end_error_data : traceOf (exec (.endOp .timeout .burst .keep) (base [])) = some [.rsp 2 0] ∧
    traceOf (exec (.endOp .ok .none .keep) { base [] with csN := false }) = some [.csh, .rsp 5 0] := by decide
/-- V-T3: the wait of 10 begun at 0xFFFFFFFC ends at 6 and not at 5; V-T2: `WAIT 0` ends at once. -/
theorem test_wait : [5#32, 6#32].map (fun now =>
    seen (exec (.wait 10) { base [] with
      held := true, regs := Regs.reset.setT0 0xFFFFFFFC, env := { (base []).env with now := now } }) (fun t => (t.held, t.upc))) =
      [some (true, 4), some (false, 5)] ∧
    seen (exec (.wait 0) (base [])) (fun t => (t.held, t.upc)) = some (false, 5) := by decide

/-- Section 2.8's matrix, column `UNINIT`. -/
theorem test_dispatch_uninit : [0#3, 1, 2, 3, 4, 5, 6, 7].map (fun op =>
    (events (dispatch op 0 (fresh [] [] [])).trace, (dispatch op 0 (fresh [] [] [])).busy)) =
    [([.cmd 0 0], true), ([.cmd 1 0, .rsp 4 0], false), ([.cmd 2 0, .rsp 4 0], false), ([.cmd 3 0, .rsp 4 0], false),
     ([.cmd 4 0, .rsp 4 0], false), ([.cmd 5 0, .rsp 4 0], false), ([.cmd 6 0, .rsp 6 0], false),
     ([.cmd 7 0, .rsp 6 0], false)] := by decide
/-- Section 2.8's matrix, column `READY`, and R100's entry points through the six commands' meanings. -/
theorem test_commands_ready : [Instr.init 0, .getId 0, .setRotation 90, .setOrientation 5, .getMotion 1000, .getMotionSlow 50].map
    (fun i => seen (exec i (ready [] [] [])) fun t => (t.busy, t.upc, t.regs.arg.val, t.rspStatus)) =
    [some (false, 0, 0, 4), some (true, 0x0000, 0, 0), some (true, 0x0004, 90, 0), some (true, 0x0001, 5, 0),
     some (true, 0x0009, 1000, 0), some (true, 0x0011, 50, 0)] := by decide

/-- R61 to R63: the frames on their own. -/
theorem test_frames : traceOf (exec (.wFrame 0x3A 0x5A) (base [1, 2])) = some [.csl, .byte 0xBA 1, .byte 0x5A 2, .csh] ∧
    seen (exec (.rFrame 0x67) (base [0xAA, 0x80])) (fun t => (t.regs.rb, t.upc)) = some (Cell.of 0x80, 4) ∧
    seen (exec .bFrame (base [0, 1, 2, 3, 4, 5, 6, 7, 8, 9, 10, 11, 12])) (fun t => t.regs.fb) =
      some (Cell.of #v[0, 1, 2, 3, 4, 5, 6, 7, 8, 9, 10, 11, 12]) := by decide

/-! ## The step -/

/-- Section 3: words of the ROM built from `CALTAB_TEST`, and the first index without a word. -/
theorem test_rom : [0x0000, 0x0026, 0x002C, 0x002E, 0x0034, 0x003B, 0x0040, 0x0042, 0x0045, 0x0047, 0x0048].map
    (Rom.reference calTabTest).read =
    [some 0xD00001, some 0x200600, some 0x61002F, some 0x600030, some 0x62003C, some 0x927100, some 0x1000F0, some 0x0044D5,
      some 0x660047, some 0xD20100, none] := by decide

/-- A reserved opcode in the ROM at `UPC` (R77, R111). -/
theorem test_step_illegal : traceOf (step { base [] with rom := Rom.write (base []).rom 4 0xE00000 }) = some [.rsp 5 0] := by
  decide
/-- V-X1: `WR 0x80, 0x00`. -/
theorem test_step_illegal_wr : traceOf (step { base [] with rom := Rom.write (base []).rom 4 0x008000 }) = some [.rsp 5 0] := by
  decide
/-- P4 lines 1 and 2: a command refused in `UNINIT`, a reserved command. -/
theorem test_step_refused : traceOf (step (fresh [0] [] [.cmd 4 100])) = some [.cmd 4 100, .rsp 4 0] ∧
    traceOf (step (fresh [0] [] [.cmd 7 0])) = some [.cmd 7 0, .rsp 6 0] := by decide
/-- R192: reset while `BUSY = 1` between `CSLO` and `CSHI`; and after one whole byte of a transfer. -/
theorem test_step_reset :
    seen (step { runningAt 0x1E 0 (fresh [0] [] [.reset]) with csN := false }) (fun t => (events t.trace, t.csN, t.busy, t.life)) =
      some ([.csh], true, false, .uninit) ∧
    traceOf (step (runningAt 0x20 0 (fresh [0, 0] [7] [.resetDuring 1]))) = some [.csl, .byte 0xBA 7, .csh] := by decide

/-- R192, R80, D8: the cut transfer's `CSH` has a draw of the clock of its own after the last byte. -/
theorem test_reset_cut_time :
    seen (step (runningAt 0x20 0 (fresh [1, 2, 4] [7] [.resetDuring 1]))) (fun t => t.trace.map (·.time)) =
      some [1001, 1003, 1007] := by decide
/-- R91, R29: a `WRR` cut by reset has read its source; nothing has written `OM`, so the run is marked. A `WR` reads none. -/
theorem test_reset_cut_wrr :
    seen (step (runningAt 0x02 0 (ready [0, 0, 0, 0] [7] [.resetDuring 1]))) (·.undefRead) = some true ∧
    seen (step (runningAt 0x20 0 (fresh [0, 0, 0, 0] [7] [.resetDuring 1]))) (·.undefRead) = some false := by decide

/-- R86, mode 2: idle high; the falling edge samples, the rising one does not. -/
theorem test_mode2_samples_on_falling :
    idleLevel .mode2 = true ∧ (Bus.reset.edge .mode2 false true).miso = true ∧ (Bus.reset.edge .mode2 true true).miso = false := by
  decide

/-- The first step after reset runs a table word placed by `withFetchWord`: a micro-op, a command, a frame (R84, R100, R63). -/
theorem test_withFetchWord_reset :
    seen (step (State.reset.withFetchWord 24 0x400000)) (fun t => (t.csN, t.upc)) = some (false, 1) ∧
    seen (step (State.reset.withFetchWord 40 0x000000000)) (fun t => (t.busy, t.upc)) = some (true, 0x001D) ∧
    seen (step (State.reset.withFetchWord 104 0x16000000000000000000000000)) (·.regs.fb.written) = some true := by decide

/-- What step does with a table word placed by `withFetchWord`, bytes and answers included. -/
theorem test_withFetchWord :
    traceOf (step ((fresh [0, 0, 0, 0] [1, 2] []).withFetchWord 24 0x003A5A)) =
      some [.csl, .byte 0xBA 1, .byte 0x5A 2, .csh] ∧
    traceOf (step ((fresh [0] [] []).withFetchWord 40 0x000000000)) = some [.cmd 0 0] ∧
    traceOf (step ((fresh [0, 0, 0, 0] [1, 2] []).withFetchWord 16 0xC804)) =
      some [.csl, .byte 0xC8 1, .byte 0x04 2, .csh] := by decide

/-! ## Witnesses: for each obligation with hypotheses, states and operands that meet all of them, clause by clause -/

/-- The sequencer at an index of the ROM built from `CALTAB_TEST`, in INIT. -/
def inInit (upc : UAddr) (ticks : List Word) (chip : List Byte) (host : List HostInput) : State :=
  runningAt upc 0 (fresh ticks chip host)

theorem test_witness_DecodeInvertsEncode :
    (Instr.wr 0x7F 0xFF).wellFormed = true ∧ (Instr.endOp .invalidArg .polled .failed).wellFormed = true ∧
    (Instr.rd 0x00 (.pb 4)).wellFormed = true ∧ (Instr.setRotation 0xFFFFFFFF).wellFormed = true := by decide

theorem test_witness_EncodeInvertsDecode :
    decode (.uop 0x007FFF) = .ok (.wr 0x7F 0xFF) ∧ decode (.cmd 0x5FFFFFFFF) = .ok (.getMotionSlow 0xFFFFFFFF) ∧
    decode (.frame [0xFF, 0xFF]) = .ok (.wFrame 0x7F 0xFF) := by decide

/-- `RDN 0x7B, 5` reaches 0x7F and is expanded; `RDN 0x7C, 5` would reach 0x80 and is refused, like any register operand above
0x7F (R77). A program with `WR 0x80` and one with `RD 0x7F` for the two outcomes of assembling. -/
theorem test_witness_AssemblerExpandsAndRefuses :
    rdn 0x7B [.discard, .discard, .discard, .discard, .discard] =
      some [.rd 0x7B .discard, .rd 0x7C .discard, .rd 0x7D .discard, .rd 0x7E .discard, .rd 0x7F .discard] ∧
    rdn 0x7C [.discard, .discard, .discard, .discard, .discard] = none ∧ rdn 0x80 [] = none ∧ rdn 0x7F [] = some [] ∧
    (0x7F < (0x80#8).toNat ∧ .wr 0x80 0 ∈ [Instr.cslo, .wr 0x80 0] ∧ assemble [.cslo, .wr 0x80 0] = none) ∧
    (assemble [.rd 0x7F .discard, .cshi] = some [0x207F00, 0x500000] ∧
      [Instr.rd 0x7F .discard, .cshi][1]? = some .cshi) ∧
    CalTab.valid calTabTest = true := by decide

theorem test_witness_ReferenceRomIsTheSpecsTable : CalTab.valid calTabTest = true := by decide

theorem test_witness_StepRunsDecodedInstruction :
    (resetNext (base []) = false ∧ (base []).frame = none ∧ (base []).busy = true ∧
      (base []).rom.read (base []).upc.toNat = some 0x670008 ∧ decodeUop 0x670008 = .ok (.bargbad 0x0008)) ∧
    (resetNext (fresh [] [] [.cmd 0 7]) = false ∧ (fresh [] [] [.cmd 0 7]).frame = none ∧
      (fresh [] [] [.cmd 0 7]).busy = false ∧ decodeCmd (cmdWord 0 7) = .ok (.init 7)) ∧
    (resetNext (fresh [] [] []) = false ∧ decodeFrame [0x67, 0x00] = .ok (.rFrame 0x67)) := by decide

theorem test_witness_BusyBlockMakesCommandsWait : ∃ t,
    ((fresh [] [] [.idle]).busy = false ∧ (fresh [] [] [.idle]).frame = none ∧ resetNext (fresh [] [] [.idle]) = false ∧
      ∀ op arg rest, (fresh [] [] [.idle]).env.host ≠ .cmd op arg :: rest) ∧
    (inInit 0x20 [] [] [.cmd 1 0]).busy = true ∧ (inInit 0x20 [] [] [.cmd 1 0]).env.host = [.cmd 1 0] ∧
    step (inInit 0x20 [] [] [.cmd 1 0]) = .next t :=
  ⟨_, ⟨rfl, rfl, rfl, fun _ _ _ h => nomatch h⟩, rfl, rfl, rfl⟩

theorem test_witness_StepOnIllegalCodes :
    (resetNext { base [] with rom := [(4, 0xE00000)] } = false ∧ (base []).busy = true ∧
      Rom.read [(4, 0xE00000)] 4 = some 0xE00000 ∧ decodeUop 0xE00000 = .error .reservedOpcode) ∧
    (Rom.reference calTabTest).read (inInit 0x48 [] [] []).upc.toNat = none ∧ (inInit 0x48 [] [] []).busy = true ∧
    decodeFrame [0x16, 0x00, 0x00] = .error .notAFrame ∧ decodeFrame [0x16, 0x01] = .error .notAFrame := by decide

theorem test_witness_DispatchGatesCommands :
    (fresh [] [] [.cmd 7 0]).busy = false ∧ (fresh [] [] [.cmd 7 0]).frame = none ∧
    (fresh [] [] [.cmd 7 0]).env.host = [.cmd 7 0] := by decide

theorem test_witness_CommandsStartTheirPrograms :
    ((fresh [] [] []).busy = false ∧ (fresh [] [] []).life = .uninit) ∧
    ((ready [] [] []).busy = false ∧ (ready [] [] []).life = .ready) := by decide

theorem test_witness_EndResponds :
    (Status.invalidArg.code.toNat ≤ 3 ∧ (base []).csN = true) ∧ 3 < Status.badState.code.toNat ∧
    ({ base [] with csN := false } : State).csN = false := by decide

theorem test_witness_XferIsOneWindow : (base []).csN = true := by decide

/-- The second byte of two is answered freely when one answer is given, the first by that answer. -/
theorem test_witness_EveryByteIsTheOraclesAnswer :
    0 < (rFrameBytes 0x67).length ∧ 1 < (rFrameBytes 0x67).length ∧ 0 < (base [5]).env.chip.length ∧
    ¬1 < (base [5]).env.chip.length := by decide

theorem test_witness_BytesGoMostSignificantBitFirst : 0 < 8 ∧ 7 < 8 := by decide

theorem test_witness_CsloAndCshiMoveChipSelect :
    (base []).csN = true ∧ ({ base [] with csN := false } : State).csN = false := by decide

/-- For `WR`, `WRR`, `RD`: the last legal address and the first illegal one, chip-select at both levels, answers given. -/
theorem test_witness_register_access :
    (BitVec.msb 0x7F#8 = false ∧ (base [1, 2]).csN = true ∧ (base [1, 2]).env.chip = [1, 2] ++ []) ∧
    BitVec.msb 0x80#8 = true ∧ ({ base [] with csN := false } : State).csN = false := by decide

theorem test_witness_BurstFillsTheFrameBuffer :
    BitVec.msb 0x16#8 = false ∧ (base [0, 1, 2, 3, 4, 5, 6, 7, 8, 9, 10, 11, 12, 13]).csN = true ∧
    (base [0, 1, 2, 3, 4, 5, 6, 7, 8, 9, 10, 11, 12, 13]).env.chip = [0, 1, 2, 3, 4, 5, 6, 7, 8, 9, 10, 11, 12] ++ [13] ∧
    BitVec.msb 0x96#8 = true := by decide

theorem test_witness_WireFramesRun :
    (base []).csN = true ∧ ({ base [] with csN := false } : State).csN = false := by decide

theorem test_witness_LoopTiming : (base []).regs.arg.val = 0 := by decide

/-- A wait in progress, `T0` captured at 1000, at this time. -/
def holding (now : Word) : State :=
  { base [] with held := true, regs := Regs.reset.setT0 1000, env := { (base []).env with now := now } }

/-- One millisecond before the wait is over, and at the instant it is. -/
theorem test_witness_WaitHoldsUntilElapsed :
    (base []).held = false ∧ (50#16 ≠ 0) ∧
    ((holding 1049).held = true ∧
      (2 ^ 32 + (holding 1049).env.now.toNat - (holding 1049).regs.t0.val.toNat) % 2 ^ 32 < (50#16).toNat) ∧
    ((holding 1050).held = true ∧
      (50#16).toNat ≤ (2 ^ 32 + (holding 1050).env.now.toNat - (holding 1050).regs.t0.val.toNat) % 2 ^ 32) := by decide

/-- INIT's `WAIT 50`: 49 ms do not end it, one more does. -/
theorem test_witness_WaitEndsAtTheFirstTestPastItsTime :
    (inInit 0x1E [0, 49, 1, 7] [] []).frame = none ∧ (inInit 0x1E [0, 49, 1, 7] [] []).busy = true ∧
    (inInit 0x1E [0, 49, 1, 7] [] []).held = false ∧ (inInit 0x1E [0, 49, 1, 7] [] []).env.host = [] ∧
    (inInit 0x1E [0, 49, 1, 7] [] []).rom.read (inInit 0x1E [0, 49, 1, 7] [] []).upc.toNat = some (UWord.ofImm 0x1 0 50) ∧
    (inInit 0x1E [0, 49, 1, 7] [] []).env.ticks = 0 :: ([49] ++ 1 :: [7]) ∧
    (([49] : List Word).map BitVec.toNat).sum < (50#16).toNat ∧
    (50#16).toNat ≤ (([49] : List Word).map BitVec.toNat).sum + (1#32).toNat ∧
    (([49] : List Word).map BitVec.toNat).sum + (1#32).toNat < 2 ^ 32 := by decide

theorem test_witness_StoppedClockHangsAWait :
    (50#16 ≠ 0) ∧ (inInit 0x1E [0, 0, 0] [] []).frame = none ∧ (inInit 0x1E [0, 0, 0] [] []).busy = true ∧
    (inInit 0x1E [0, 0, 0] [] []).held = false ∧ (inInit 0x1E [0, 0, 0] [] []).env.host = [] ∧
    (inInit 0x1E [0, 0, 0] [] []).rom.read (inInit 0x1E [0, 0, 0] [] []).upc.toNat = some (UWord.ofImm 0x1 0 50) ∧
    (inInit 0x1E [0, 0, 0] [] []).env.ticks = List.replicate 3 0 ++ [] := by decide

/-- A status other than `OK`; the other clauses have no hypotheses. -/
theorem test_witness_ReadBeforeWriteMarksTheRun : Status.timeout ≠ .ok := by decide

/-- Between micro-ops with chip-select low (INIT's pulse); inside the power-up-reset write, after one of its two bytes; and
about to run SET_ORIENTATION's `WRR`, its source unwritten. -/
theorem test_witness_ResetAborts :
    ((inInit 0x1F [] [] [.reset]).env.host = [.reset] ∧
      pendingTransfer { inInit 0x1F [] [] [.reset] with csN := false } = none) ∧
    ((inInit 0x20 [1, 2, 4] [] [.resetDuring 1]).env.host = [.resetDuring 1] ∧
      pendingTransfer (inInit 0x20 [1, 2, 4] [] [.resetDuring 1]) = some [0xBA, 0x5A] ∧
      (inInit 0x20 [1, 2, 4] [] [.resetDuring 1]).env.ticks = 1 :: ([2] ++ 4 :: []) ∧
      ([2] : List Word).length = min 1 ([0xBA, 0x5A] : List Byte).length) ∧
    ((base []).frame = none ∧ (base []).busy = true ∧ (base []).csN = true ∧
      (runningAt 0x02 0 (ready [] [] [])).rom.read 0x02 = some 0x955B00 ∧ decodeUop 0x955B00 = .ok (.wrr 0x5B .om)) ∧
    ((fresh [] [] []).frame = none ∧ (fresh [] [] []).busy = false) := by decide

theorem presents_ready (op : BitVec 3) (arg : Word) (ticks : List Word) (chip : List Byte) :
    Presents calTabTest op arg (ready ticks chip [.cmd op arg]) := ⟨rfl, rfl, rfl, ⟨rfl, rfl⟩, rfl⟩

theorem presents_fresh (op : BitVec 3) (arg : Word) (ticks : List Word) :
    Presents calTabTest op arg (fresh ticks [] [.cmd op arg]) := ⟨rfl, rfl, rfl, ⟨rfl, rfl⟩, rfl⟩

theorem test_witness_GetIdAnswersTheHeldPair :
    Presents calTabTest 1 0 (ready [] [] [.cmd 1 0]) ∧ (ready [] [] [.cmd 1 0]).life = .ready ∧
    (ready [] [] [.cmd 1 0]).regs.pidr.val = 0x49 ∧ (ready [] [] [.cmd 1 0]).regs.revr.val = 0x00 :=
  ⟨presents_ready 1 0 [] [], rfl, rfl, rfl⟩

theorem test_witness_SetOrientationWritesTheMask :
    (Presents calTabTest 3 5 (ready [] [] [.cmd 3 5]) ∧ (ready [] [] [.cmd 3 5]).life = .ready) ∧
    (Presents calTabTest 3 5 (fresh [] [] [.cmd 3 5]) ∧ (fresh [] [] [.cmd 3 5]).life ≠ .ready) :=
  ⟨⟨presents_ready 3 5 [] [], rfl⟩, ⟨presents_fresh 3 5 [], by decide⟩⟩

theorem test_witness_SetRotationWritesTheMaskOrRefuses :
    (Presents calTabTest 2 270 (ready [] [] [.cmd 2 270]) ∧ (ready [] [] [.cmd 2 270]).life = .ready ∧
      ((270#32).toNat, 0x20#8) ∈ [(0, 0xE0#8), (90, 0x40#8), (180, 0x80#8), (270, 0x20#8)]) ∧
    (Presents calTabTest 2 360 (ready [] [] [.cmd 2 360]) ∧ (360#32).toNat ∉ [0, 90, 180, 270]) ∧
    (Presents calTabTest 2 0 (fresh [] [] [.cmd 2 0]) ∧ (fresh [] [] [.cmd 2 0]).life ≠ .ready) :=
  ⟨⟨presents_ready 2 270 [] [], rfl, by decide⟩, ⟨presents_ready 2 360 [] [], by decide⟩,
    ⟨presents_fresh 2 0 [], by decide⟩⟩

/-- A frame of quality 0x1A, the least that passes. -/
def goodFrame : Vector Byte 13 := #v[0, 0, 0, 5, 0, 0xFE, 0xFF, 0x1A, 0, 0, 0, 0, 0]

/-- V-GM1's zero timeout; and a timeout of 1 tested in the same millisecond, with a frame that just qualifies. -/
theorem test_witness_GetMotionFirstRound :
    (Presents calTabTest 4 0 (ready [0, 0, 0] [] [.cmd 4 0]) ∧ (ready [0, 0, 0] [] [.cmd 4 0]).life = .ready ∧
      (ready [0, 0, 0] [] [.cmd 4 0]).env.ticks = 0 :: 0 :: 0 :: [] ∧ (0#32).toNat ≤ (0#32).toNat) ∧
    (Presents calTabTest 4 1 (ready [0, 0, 0] goodFrame.toList [.cmd 4 1]) ∧
      (ready [0, 0, 0] goodFrame.toList [.cmd 4 1]).life = .ready ∧
      (ready [0, 0, 0] goodFrame.toList [.cmd 4 1]).env.ticks = 0 :: 0 :: 0 :: [] ∧ (0#32).toNat < (1#32).toNat ∧
      (ready [0, 0, 0] goodFrame.toList [.cmd 4 1]).env.chip = goodFrame.toList ++ [] ∧ 0x19 < (goodFrame[7]).toNat) :=
  ⟨⟨presents_ready 4 0 _ _, rfl, rfl, by decide⟩, ⟨presents_ready 4 1 _ _, rfl, rfl, by decide, rfl, by decide⟩⟩

/-- V-GMS1's zero timeout; and V-GMS2's first round with a data-ready byte of 0x80, one millisecond before the timeout. -/
theorem test_witness_GetMotionSlowFirstRound :
    (Presents calTabTest 5 0 (ready [0, 0, 0] [] [.cmd 5 0]) ∧ (ready [0, 0, 0] [] [.cmd 5 0]).life = .ready ∧
      (ready [0, 0, 0] [] [.cmd 5 0]).env.ticks = 0 :: 0 :: 0 :: [] ∧ (0#32).toNat ≤ (0#32).toNat) ∧
    (Presents calTabTest 5 50 (ready [0, 0, 49] [9, 0x80, 9, 5, 9, 0, 9, 0xFE, 9, 0xFF] [.cmd 5 50]) ∧
      (ready [0, 0, 49] [9, 0x80, 9, 5, 9, 0, 9, 0xFE, 9, 0xFF] [.cmd 5 50]).env.ticks = 0 :: 0 :: 49 :: [] ∧
      (49#32).toNat < (50#32).toNat ∧
      (ready [0, 0, 49] [9, 0x80, 9, 5, 9, 0, 9, 0xFE, 9, 0xFF] [.cmd 5 50]).env.chip =
        [9, 0x80, 9, 5, 9, 0, 9, 0xFE, 9, 0xFF] ++ [] ∧ 0x80 ≤ (0x80#8).toNat) :=
  ⟨⟨presents_ready 5 0 _ _, rfl, rfl, by decide⟩, ⟨presents_ready 5 50 _ _, rfl, by decide, rfl, by decide⟩⟩

/-- 49 ms after the wait began, and one more. -/
theorem test_witness_InitBeginsWithTheResetPulse :
    Presents calTabTest 0 0 (fresh [0, 0, 0, 49, 1, 0] [] [.cmd 0 0]) ∧
    (fresh [0, 0, 0, 49, 1, 0] [] [.cmd 0 0]).life = .uninit ∧
    (fresh [0, 0, 0, 49, 1, 0] [] [.cmd 0 0]).env.ticks = 0 :: 0 :: 0 :: ([49] ++ [1, 0]) ∧
    (([49] : List Word).map BitVec.toNat).sum < 50 ∧ ([1, 0] : List Word) = 1 :: 0 :: [] ∧
    50 ≤ (([49] : List Word).map BitVec.toNat).sum + (1#32).toNat ∧
    (([49] : List Word).map BitVec.toNat).sum + (1#32).toNat < 2 ^ 32 :=
  ⟨presents_fresh 0 0 _, rfl, rfl, by decide, rfl, by decide, by decide⟩

/-- `CAL_A` of `CALTAB_TEST` at 0x0027; and an empty table. -/
theorem test_witness_CalibrationTablesAreReplayed :
    (∀ e ∈ calTabTest.a, e.reg.msb = false) ∧
    (∀ j : Fin 4, (Rom.reference calTabTest).read (0x27 + j.val) =
      some (BitVec.ofNat 24 ((calTabTest.a[j.val]).reg.toNat * 256 + (calTabTest.a[j.val]).val.toNat))) ∧
    0x27 + calTabTest.a.length < 65536 ∧ (inInit 0x27 [] [] []).frame = none ∧ (inInit 0x27 [] [] []).busy = true ∧
    (inInit 0x27 [] [] []).csN = true ∧ (inInit 0x27 [] [] []).env.host = [] ∧ (inInit 0x27 [] [] []).upc.toNat = 0x27 := by
  decide

/-- Bit 7 set (P1) and clear (P1b). -/
theorem test_witness_CalibrationBranchOne :
    CalTab.valid calTabTest = true ∧ RunsAt calTabTest (CalTab.p1 calTabTest) (inInit 0x2B [] [0, 0x80] []) ∧
    RunsAt calTabTest (CalTab.p1 calTabTest) (inInit 0x2B [] [0, 0x7F] []) :=
  ⟨by decide, ⟨rfl, rfl, rfl, by decide, rfl, rfl, rfl⟩, ⟨rfl, rfl, rfl, by decide, rfl, rfl, rfl⟩⟩

/-- Register 0x73 reading 0x01 (P1b) and 0x00 (P1). -/
theorem test_witness_CalibrationBranchTwo :
    CalTab.valid calTabTest = true ∧ RunsAt calTabTest (CalTab.p2 calTabTest) (inInit 0x33 [] [0, 1] []) ∧ (1#8 ≠ 0) ∧
    RunsAt calTabTest (CalTab.p2 calTabTest) (inInit 0x33 [] [0, 0, 0, 20, 0, 50] []) :=
  ⟨by decide, ⟨rfl, rfl, rfl, by decide, rfl, rfl, rfl⟩, by decide, ⟨rfl, rfl, rfl, by decide, rfl, rfl, rfl⟩⟩

/-- The identity pair of P1 and of P1b. -/
theorem test_witness_InitEndsByTheIdentityCheck :
    CalTab.valid calTabTest = true ∧ RunsAt calTabTest (CalTab.p4 calTabTest) (inInit 0x43 [] [0, 0x49, 0, 0x00] []) ∧
    RunsAt calTabTest (CalTab.p4 calTabTest) (inInit 0x43 [] [0, 0x49, 0, 0x01] []) :=
  ⟨by decide, ⟨rfl, rfl, rfl, by decide, rfl, rfl, rfl⟩, ⟨rfl, rfl, rfl, by decide, rfl, rfl, rfl⟩⟩

/-- For StepKeepsChipSelectDiscipline, CommandsAndResponsesStayInBalance and NoStepWritesTheRomOrThePast: `CSHI` ending INIT's pulse. -/
theorem test_witness_steps :
    ∃ t, Disciplined { inInit 0x1F [0] [] [] with csN := false, trace := [⟨.csl, 1000⟩] } ∧
      resetNext (inInit 0x1F [0] [] []) = false ∧
      step { inInit 0x1F [0] [] [] with csN := false, trace := [⟨.csl, 1000⟩] } = .next t :=
  ⟨_, ⟨nofun, rfl⟩, rfl, rfl⟩

/-- `END INIT_ERROR, NONE, FAILED` at 0x0047. -/
theorem test_witness_StateChangesOnlyWithAResponse :
    ∃ t, step (inInit 0x47 [0] [] []) = .next t ∧ t.life ≠ (inInit 0x47 [0] [] []).life := ⟨_, rfl, by decide⟩

/-- `RD 0x00, PIDR` at 0x0043. -/
theorem test_witness_IdentityWrittenOnlyByRd :
    ∃ t, step (inInit 0x43 [0, 0, 0, 0] [0, 0x49] []) = .next t ∧
      (t.regs.pidr ≠ (inInit 0x43 [0, 0, 0, 0] [0, 0x49] []).regs.pidr ∨
        t.regs.revr ≠ (inInit 0x43 [0, 0, 0, 0] [0, 0x49] []).regs.revr) := ⟨_, rfl, by decide⟩

/-- For the three statements over the reference invariant: the block idle in `READY`. -/
theorem test_witness_reference_ready :
    ∃ t, CalTab.valid calTabTest = true ∧ Reference calTabTest (ready [0] [] [.cmd 4 100]) ∧
      (ready [0] [] [.cmd 4 100]).life = .ready ∧ resetNext (ready [0] [] [.cmd 4 100]) = false ∧
      step (ready [0] [] [.cmd 4 100]) = .next t :=
  ⟨_, by decide, ⟨rfl, rfl, rfl, by decide, fun _ => ⟨rfl, rfl⟩, fun _ => ⟨rfl, rfl⟩, nofun⟩, rfl, rfl, rfl⟩

/-- The same: the block idle in `FAILED`, and `rst_n` low. -/
theorem test_witness_reference_failed :
    Reference calTabTest { fresh [0] [] [.reset] with life := .failed } ∧ resetNext (fresh [0] [] [.reset]) = true :=
  ⟨⟨rfl, rfl, rfl, by decide, nofun, fun _ => ⟨rfl, rfl⟩, nofun⟩, rfl⟩

/-- The same: INIT at the end of the reset pulse (index 0x1F), chip-select low. -/
theorem test_witness_reference_running :
    Reference calTabTest { inInit 0x1F [0] [] [] with csN := false } ∧ ({ inInit 0x1F [0] [] [] with csN := false } : State).busy = true :=
  ⟨⟨rfl, rfl, rfl, by decide, nofun, nofun, fun _ => ⟨by decide, by decide, by decide, nofun, by decide, by decide, by decide,
    by decide, by decide, by decide, by decide, by decide, by decide, by decide, by decide, by decide⟩⟩, rfl⟩

/-- In a polling loop, the timeout 100 running since 950, with these clock advances and answers. -/
def polling (upc : UAddr) (ticks : List Word) (chip : List Byte) : State :=
  let s := runningAt upc 100 (ready ticks chip [])
  { s with regs := s.regs.setTstart 950 }

/-- The clock's advances of a failing round between the timeout test and the first test of its wait. -/
def roundTicks (n : Nat) : List Word := List.replicate n 0

/-- A frame of quality 0x19, the most that fails. -/
def badFrame : Vector Byte 13 := #v[0, 0, 0, 5, 0, 0xFE, 0xFF, 0x19, 0, 0, 0, 0, 0]

theorem runsAt_polling (upc : UAddr) (ticks : List Word) (chip : List Byte) :
    RunsAt calTabTest upc.toNat (polling upc ticks chip) := ⟨rfl, rfl, rfl, rfl, rfl, rfl, rfl⟩

/-- At the timeout; one millisecond before it with a frame that qualifies; and with one that does not, 9 ms and then 10 ms of
back-off gone. -/
theorem test_witness_GetMotionEveryRound :
    (RunsAt calTabTest 0x000A (polling 0x000A [50] []) ∧ (polling 0x000A [50] []).env.ticks = 50 :: [] ∧
      (polling 0x000A [50] []).regs.arg.val.toNat ≤
        ((polling 0x000A [50] []).env.now + 50 - (polling 0x000A [50] []).regs.tstart.val).toNat) ∧
    (RunsAt calTabTest 0x000A (polling 0x000A (49 :: (roundTicks 17 ++ ([9] ++ [1, 0]))) badFrame.toList) ∧
      ((1000#32 + 49 - 950).toNat < (100#32).toNat) ∧
      (polling 0x000A [] badFrame.toList).env.chip = badFrame.toList ++ [] ∧
      (polling 0x000A [] goodFrame.toList).env.chip = goodFrame.toList ++ [] ∧
      0x19 < (goodFrame[7]).toNat ∧ (badFrame[7]).toNat ≤ 0x19 ∧ (roundTicks 17).length = 17 ∧
      (([9] : List Word).map BitVec.toNat).sum < 10 ∧ ([1, 0] : List Word) = 1 :: 0 :: [] ∧
      10 ≤ (([9] : List Word).map BitVec.toNat).sum + (1#32).toNat ∧
      (([9] : List Word).map BitVec.toNat).sum + (1#32).toNat < 2 ^ 32) :=
  ⟨⟨runsAt_polling 0x000A _ _, rfl, by decide⟩, runsAt_polling 0x000A _ _, by decide, rfl, rfl, by decide, by decide, by decide,
    by decide, rfl, by decide, by decide⟩

/-- The same for the polled loop, with data-ready bytes of 0x80 and 0x7F. -/
theorem test_witness_GetMotionSlowEveryRound :
    (RunsAt calTabTest 0x0012 (polling 0x0012 [50] []) ∧ (polling 0x0012 [50] []).env.ticks = 50 :: [] ∧
      (100#32).toNat ≤ (1000#32 + 50 - 950).toNat) ∧
    (RunsAt calTabTest 0x0012 (polling 0x0012 (49 :: (roundTicks 22 ++ ([0] ++ [1, 0]))) [9, 0x7F, 9, 5, 9, 0, 9, 0xFE, 9, 0xFF]) ∧
      ((1000#32 + 49 - 950).toNat < (100#32).toNat) ∧
      (polling 0x0012 [] [9, 0x7F, 9, 5, 9, 0, 9, 0xFE, 9, 0xFF]).env.chip = [9, 0x7F, 9, 5, 9, 0, 9, 0xFE, 9, 0xFF] ++ [] ∧
      0x80 ≤ (0x80#8).toNat ∧ (0x7F#8).toNat < 0x80 ∧ (roundTicks 22).length = 22 ∧
      (([0] : List Word).map BitVec.toNat).sum < 1 ∧ ([1, 0] : List Word) = 1 :: 0 :: [] ∧
      1 ≤ (([0] : List Word).map BitVec.toNat).sum + (1#32).toNat) :=
  ⟨⟨runsAt_polling 0x0012 _ _, rfl, by decide⟩, runsAt_polling 0x0012 _ _, by decide, rfl, by decide, by decide, by decide,
    by decide, rfl, by decide⟩

/-- INIT's `WAIT 50`: three draws, of 0, 49 and 1 ms, after the one that begins it. -/
theorem test_witness_AdvancingClockEndsAWait :
    (inInit 0x1E [7, 0, 49, 1] [] []).frame = none ∧ (inInit 0x1E [7, 0, 49, 1] [] []).busy = true ∧
    (inInit 0x1E [7, 0, 49, 1] [] []).held = false ∧ (inInit 0x1E [7, 0, 49, 1] [] []).env.host = [] ∧
    (inInit 0x1E [7, 0, 49, 1] [] []).rom.read (inInit 0x1E [7, 0, 49, 1] [] []).upc.toNat = some (UWord.ofImm 0x1 0 50) ∧
    (50#16).toNat ≤ advanced (inInit 0x1E [7, 0, 49, 1] [] []).env.tick 3 ∧
    advanced (inInit 0x1E [7, 0, 49, 1] [] []).env.tick 3 < 2 ^ 32 := by decide

end Sys2Proof.Tests
end

section
/-! PROOFS. What one instruction and one step can do, said once, for any micro-ROM. -/

namespace Sys2Proof.Proofs

open Sys2Proof.Machine Sys2Proof.Safety

/-! ## One instruction -/

/-- `t` is `s` after sequencer work without a bus event or a response: `UPC`, the working registers, the wait's flag and the
mark on the run may differ. -/
def OnlyCoreMoved (s t : State) : Prop :=
  t = { s with upc := t.upc, regs := t.regs, held := t.held, undefRead := t.undefRead }

theorem OnlyCoreMoved.refl (s : State) : OnlyCoreMoved s s := rfl

theorem noteRead_onlyCore (s : State) (written : Bool) : OnlyCoreMoved s (s.noteRead written) := rfl

theorem setRegs_onlyCore (s : State) (r : Regs) : OnlyCoreMoved s (s.setRegs r) := rfl

theorem OnlyCoreMoved.branch {s t : State} (h : OnlyCoreMoved s t) (cond : Bool) (target : UAddr) :
    OnlyCoreMoved s (branch cond target t) := by
  unfold OnlyCoreMoved at *
  rw [branch_eq, h]

theorem OnlyCoreMoved.waitTest {s t : State} (h : OnlyCoreMoved s t) (ms : BitVec 16) :
    OnlyCoreMoved s (waitTest ms t) := by
  unfold OnlyCoreMoved at *
  by_cases hold : (t.elapsed t.regs.t0.val).toNat < ms.toNat
  · rw [waitTest_hold ms t hold, h]
  · rw [waitTest_done ms t (Nat.not_lt.mp hold), h]

/-- What the meaning of `i` makes of `s`, one constructor per way it can end. -/
inductive ExecEffect (i : Instr) (s : State) : State → Prop where
  /-- Sequencer work: waits, branches, transforms, stamps and masks. -/
  | core {t : State} (moved : OnlyCoreMoved s t) : ExecEffect i s t
  /-- `UFAULT` (R111), after a read of a register when `OMROT` meets no mask. -/
  | ufault (written : Bool) : ExecEffect i s (uFault (s.noteRead written))
  /-- `CSLO` (R84). -/
  | select (instr : i = .cslo) (high : s.csN = true) : ExecEffect i s s.selectChip.advance
  /-- `CSHI` (R85). -/
  | release (instr : i = .cshi) (low : s.csN = false) : ExecEffect i s s.releaseChip.advance
  /-- One transfer of the bytes `i` sends, then sequencer work with the bytes received (R80, R90 to R95). -/
  | sent {t : State} (tx : List Byte) (bytes : busBytes i s = some tx) (high : s.csN = true)
      (moved : OnlyCoreMoved (xfer (s.noteRead (busWritten i s)) tx).2 t) : ExecEffect i s t
  /-- `END` (R110). -/
  | ended (status : Status) (result : ResultSel) (next : NextSel) (instr : i = .endOp status result next)
      (encodable : status.encodable = true) (high : s.csN = true) :
      ExecEffect i s (((s.noteRead (endWritten status result s.regs)).setLife (NextSel.apply next s.life)).respond status
        (endData status result s.regs))
  /-- A host command (R100). -/
  | dispatched (op : BitVec 3) (arg : Word) (instr : encode i = .cmd (cmdWord op arg)) : ExecEffect i s (dispatch op arg s)

theorem noteRead_true (s : State) : s.noteRead true = s := by simp [State.noteRead]

theorem ExecEffect.faulted (i : Instr) (s : State) : ExecEffect i s (uFault s) := by
  simpa only [noteRead_true] using ExecEffect.ufault (i := i) (s := s) true

/-- A micro-op's or a frame's transfer, begun at either level of chip-select. -/
theorem ExecEffect.transferred (i : Instr) (s : State) (tx : List Byte) (keep : List Byte → State → State)
    (bytes : busBytes i s = some tx) (kept : ∀ rx u, OnlyCoreMoved u (keep rx u)) :
    ExecEffect i s (transfer (s.noteRead (busWritten i s)) tx keep) := by
  cases h : s.csN with
  | true => rw [transfer_high (s.noteRead _) _ _ h]; exact .sent tx bytes h (kept _ _)
  | false => rw [transfer_low (s.noteRead _) _ _ h]; exact .ufault _

/-- The same for a transfer that sends no register's value. -/
theorem ExecEffect.transferredPlain (i : Instr) (s : State) (tx : List Byte) (keep : List Byte → State → State)
    (bytes : busBytes i s = some tx) (plain : busWritten i s = true) (kept : ∀ rx u, OnlyCoreMoved u (keep rx u)) :
    ExecEffect i s (transfer s tx keep) := by
  simpa only [plain, noteRead_true] using ExecEffect.transferred i s tx keep bytes kept

/-- The same for an operand that may have bit 7 set (R77). -/
theorem ExecEffect.checked (i : Instr) (s : State) (ok : Bool) (tx : List Byte) (keep : List Byte → State → State)
    (bytes : busBytes i s = if ok then some tx else none) (plain : busWritten i s = true)
    (kept : ∀ rx u, OnlyCoreMoved u (keep rx u)) :
    ExecEffect i s (if ok then transfer s tx keep else uFault s) := by
  cases ok with
  | true => exact .transferredPlain i s tx keep bytes plain kept
  | false => exact .faulted i s

theorem execWrr_effect (reg : Byte) (src : Src) (s t : State) (h : execWrr reg src s = .next t) :
    ExecEffect (.wrr reg src) s t := by
  obtain rfl := Host.Outcome.next.inj h
  split
  next ok =>
    rw [Bool.and_eq_true] at ok
    exact .transferred (.wrr reg src) s _ _ (if_pos ok.1) fun _ _ => rfl
  next => exact .faulted _ s

theorem execWait_effect (ms : BitVec 16) (s t : State) (h : execWait ms s = .next t) : ExecEffect (.wait ms) s t := by
  obtain rfl := Host.Outcome.next.inj h
  split
  · exact .core (OnlyCoreMoved.waitTest (noteRead_onlyCore s _) ms)
  · exact .core (OnlyCoreMoved.waitTest (setRegs_onlyCore s _) ms)

theorem execOmrot_effect (s t : State) (h : execOmrot s = .next t) : ExecEffect .omrot s t := by
  obtain rfl := Host.Outcome.next.inj h
  split
  · exact .core rfl
  · exact .ufault _

theorem execEnd_effect (status : Status) (result : ResultSel) (next : NextSel) (s t : State)
    (h : execEnd status result next s = .next t) : ExecEffect (.endOp status result next) s t := by
  obtain rfl := Host.Outcome.next.inj h
  split
  next ok =>
    rw [Bool.and_eq_true] at ok
    exact .ended status result next rfl ok.1 ok.2
  next => exact .faulted _ s

theorem execCslo_effect (s t : State) (h : execCslo s = .next t) : ExecEffect .cslo s t := by
  obtain rfl := Host.Outcome.next.inj h
  split
  next high => exact .select rfl high
  next => exact .faulted _ s

theorem execCshi_effect (s t : State) (h : execCshi s = .next t) : ExecEffect .cshi s t := by
  obtain rfl := Host.Outcome.next.inj h
  split
  next => exact .faulted _ s
  next low => exact .release rfl (Bool.eq_false_of_not_eq_true low)

/-- Everything an instruction's meaning can do. -/
theorem exec_effect (i : Instr) (s t : State) (h : exec i s = .next t) : ExecEffect i s t := by
  cases i with
  | wr reg | rd reg | burst reg =>
    obtain rfl := Host.Outcome.next.inj h
    exact .checked _ s (regOk reg) _ _ rfl rfl fun _ _ => rfl
  | wFrame | rFrame | bFrame =>
    obtain rfl := Host.Outcome.next.inj h
    exact .transferredPlain _ s _ _ rfl rfl fun _ _ => rfl
  | wrr reg src => exact execWrr_effect reg src s t h
  | wait ms => exact execWait_effect ms s t h
  | omrot => exact execOmrot_effect s t h
  | endOp status result next => exact execEnd_effect status result next s t h
  | cslo => exact execCslo_effect s t h
  | cshi => exact execCshi_effect s t h
  | jmp =>
    obtain rfl := Host.Outcome.next.inj h
    exact .core (OnlyCoreMoved.branch (.refl s) _ _)
  | bb7 | bnz | bqok | bdrdy | btmo | bidbad | bargbad =>
    obtain rfl := Host.Outcome.next.inj h
    exact .core (OnlyCoreMoved.branch (noteRead_onlyCore s _) _ _)
  | xf1 | xf2 | tstamp | omflg =>
    obtain rfl := Host.Outcome.next.inj h
    exact .core rfl
  | init | getId | setRotation | setOrientation | getMotion | getMotionSlow =>
    obtain rfl := Host.Outcome.next.inj h
    exact .dispatched _ _ rfl

/-! ## One step -/

/-- What a step that gives a next state makes of `s`, one constructor per kind of step. -/
inductive StepEffect (s : State) : State → Prop where
  /-- `rst_n` low between two micro-ops (R190). -/
  | reset (cut : Option Nat) (work : nextWork s = .reset cut) : StepEffect s (hardReset (beginStep s))
  /-- `rst_n` low inside the transfer about to be made (R192). -/
  | resetInside (n : Nat) (tx : List Byte) (work : nextWork s = .reset (some n)) (bytes : pendingTransfer s = some tx) :
      StepEffect s (hardReset (cutTransfer ((beginStep s).noteRead (pendingWritten s)) tx n))
  /-- An idle instant (R101). -/
  | quiet (work : nextWork s = .quiet) : StepEffect s (beginStep s)
  /-- The meaning of the instruction decoded. -/
  | run {t : State} (c : Code) (i : Instr) (work : nextWork s = .code c) (decoded : decode c = .ok i)
      (effect : ExecEffect i (beginStep s) t) : StepEffect s t
  /-- An illegal micro-op word (R111). -/
  | illegalWord (w : UWord) (e : Reject) (work : nextWork s = .code (.uop w)) (illegal : decodeUop w = .error e) :
      StepEffect s (uFault (beginStep s))
  /-- A reserved command code (R100). -/
  | reservedCommand (w : BitVec 35) (e : Reject) (work : nextWork s = .code (.cmd w)) (illegal : decodeCmd w = .error e) :
      StepEffect s (dispatch (w.extractLsb' 32 3) (w.extractLsb' 0 32) (beginStep s))

theorem resetStep_effect (cut : Option Nat) (s : State) (work : nextWork s = .reset cut) :
    StepEffect s (resetStep cut s) := by
  cases cut with
  | none => exact .reset none work
  | some n =>
    cases bytes : pendingTransfer s with
    | none => rw [resetStep_between _ s (.inr bytes)]; exact .reset _ work
    | some tx => rw [resetStep_inside n s tx bytes]; exact .resetInside n tx work bytes

theorem illegalCode_effect (c : Code) (e : Reject) (s t : State) (work : nextWork s = .code c)
    (illegal : decode c = .error e) (h : illegalCode c (beginStep s) = .next t) : StepEffect s t := by
  cases c with
  | uop w =>
    obtain rfl := Host.Outcome.next.inj h
    exact .illegalWord w e work illegal
  | cmd w =>
    obtain rfl := Host.Outcome.next.inj h
    exact .reservedCommand w e work illegal
  | frame bytes => cases h

/-- Everything a step that gives a next state can do. -/
theorem step_effect (s t : State) (h : step s = .next t) : StepEffect s t := by
  rcases step_cases s with ⟨cut, work, hs⟩ | ⟨-, hs⟩ | ⟨work, hs⟩ | ⟨c, i, work, decoded, hs⟩ |
    ⟨c, e, work, illegal, hs⟩ <;> rw [hs] at h
  · obtain rfl := Host.Outcome.next.inj h
    exact resetStep_effect cut s work
  · cases h
  · obtain rfl := Host.Outcome.next.inj h
    exact .quiet work
  · exact .run c i work decoded (exec_effect i _ t h)
  · exact illegalCode_effect c e s t work illegal h

end Sys2Proof.Proofs
end

section
/-! PROOFS. No step writes the micro-ROM or takes back an event of the trace (R8, R43). -/

namespace Sys2Proof.Proofs

open Sys2Proof.Machine Sys2Proof.Safety

/-- The micro-ROM is the same and the trace has only grown. -/
def KeepsRomAndPast (s t : State) : Prop := t.rom = s.rom ∧ s.trace <+: t.trace

/-- A trace that has grown is one with some events added. -/
theorem exists_adds_iff (s t : State) : (∃ evs, Adds s t evs) ↔ s.trace <+: t.trace := by
  constructor
  · rintro ⟨_, new, grown, -⟩
    exact ⟨new, grown.symm⟩
  · rintro ⟨new, grown⟩
    exact ⟨_, new, grown.symm, rfl⟩

namespace KeepsRomAndPast

theorem refl (s : State) : KeepsRomAndPast s s := ⟨rfl, [], List.append_nil _⟩

theorem trans {s t u : State} (h₁ : KeepsRomAndPast s t) (h₂ : KeepsRomAndPast t u) : KeepsRomAndPast s u :=
  ⟨h₂.1.trans h₁.1, h₁.2.trans h₂.2⟩

/-- The trace may be given with the events added written out. -/
theorem of_append {s t : State} (rom : t.rom = s.rom) (new : Trace) (grown : t.trace = s.trace ++ new) :
    KeepsRomAndPast s t := ⟨rom, new, grown.symm⟩

end KeepsRomAndPast

theorem OnlyCoreMoved.keepsRomAndPast {s t : State} (h : OnlyCoreMoved s t) : KeepsRomAndPast s t := by
  rw [h]
  exact .refl s

theorem beginStep_keepsRomAndPast (s : State) : KeepsRomAndPast s (beginStep s) := .refl s

theorem noteRead_keepsRomAndPast (s : State) (written : Bool) : KeepsRomAndPast s (s.noteRead written) := .refl s

theorem respond_keepsRomAndPast (s : State) (status : Status) (data : Word) : KeepsRomAndPast s (s.respond status data) :=
  .of_append rfl _ rfl

theorem uFault_keepsRomAndPast (s : State) : KeepsRomAndPast s (uFault s) := by
  rw [uFault_eq]
  exact .of_append rfl _ rfl

theorem xfer_keepsRomAndPast (s : State) (tx : List Byte) (high : s.csN = true) : KeepsRomAndPast s (xfer s tx).2 := by
  obtain ⟨new, grown, -⟩ := xfer_trace s tx
  have rom : (xfer s tx).2.rom = s.rom := by rw [xfer_only_bus s tx high]
  exact .of_append rom new grown

theorem cutTransfer_keepsRomAndPast (s : State) (tx : List Byte) (n : Nat) : KeepsRomAndPast s (cutTransfer s tx n) := by
  obtain ⟨-, new, -, grown, -⟩ := cutTransfer_trace s tx n
  have rom : (cutTransfer s tx n).rom = s.rom := by rw [cutTransfer_only_bus s tx n]; rfl
  exact .of_append rom new grown

theorem hardReset_keepsRomAndPast (s : State) : KeepsRomAndPast s (hardReset s) := by
  rw [hardReset_eq]
  cases s.csN with
  | true => exact .refl s
  | false => exact .of_append rfl _ rfl

theorem dispatch_keepsRomAndPast (op : BitVec 3) (arg : Word) (s : State) : KeepsRomAndPast s (dispatch op arg s) := by
  have accepted : KeepsRomAndPast s (s.emit (.cmd op arg)) := .of_append rfl _ rfl
  cases busy : s.busy with
  | true => rw [dispatch_busy op arg s busy]; exact .refl s
  | false =>
    obtain ⟨-, h⟩ | ⟨-, -, h⟩ | ⟨-, -, h⟩ := dispatch_cases op arg s busy <;> rw [h]
    · exact accepted.trans (respond_keepsRomAndPast _ _ _)
    · exact accepted.trans (respond_keepsRomAndPast _ _ _)
    · exact accepted

theorem ExecEffect.keepsRomAndPast {i : Instr} {s t : State} (h : ExecEffect i s t) : KeepsRomAndPast s t := by
  cases h with
  | core moved => exact moved.keepsRomAndPast
  | ufault written => exact (noteRead_keepsRomAndPast s written).trans (uFault_keepsRomAndPast _)
  | select | release => exact .of_append rfl _ rfl
  | sent tx bytes high moved =>
    exact ((noteRead_keepsRomAndPast s _).trans (xfer_keepsRomAndPast _ tx high)).trans moved.keepsRomAndPast
  | ended => exact .of_append rfl _ rfl
  | dispatched op arg => exact dispatch_keepsRomAndPast op arg s

theorem step_keepsRomAndPast (s t : State) (h : step s = .next t) : KeepsRomAndPast s t := by
  refine (beginStep_keepsRomAndPast s).trans ?_
  cases step_effect s t h with
  | reset => exact hardReset_keepsRomAndPast _
  | resetInside n tx =>
    exact ((noteRead_keepsRomAndPast _ _).trans (cutTransfer_keepsRomAndPast _ tx n)).trans (hardReset_keepsRomAndPast _)
  | quiet => exact .refl _
  | run c i work decoded effect => exact effect.keepsRomAndPast
  | illegalWord => exact uFault_keepsRomAndPast _
  | reservedCommand => exact dispatch_keepsRomAndPast _ _ _

/-- Settles O50: every kind of step leaves the ROM and only appends to the trace. -/
theorem noStepWritesTheRomOrThePast : Obligations.NoStepWritesTheRomOrThePast := by
  intro s t h
  obtain ⟨rom, past⟩ := step_keepsRomAndPast s t h
  exact ⟨rom, (exists_adds_iff s t).mpr past⟩

end Sys2Proof.Proofs
end

section
/-! PROOFS. The response data of a motion command against the frame parsers (R67, R153, R161). -/

namespace Sys2Proof.Proofs

open Sys2Proof.Machine

/-- Four bytes in a row are two 16-bit halves. -/
theorem append_bytes_eq_halves (b3 b2 b1 b0 : Byte) :
    (b3 ++ b2 ++ b1 ++ b0 : BitVec 32) = (b3 ++ b2 : BitVec 16) ++ (b1 ++ b0 : BitVec 16) := BitVec.append_assoc

theorem lowHalf_append_bytes (b3 b2 b1 b0 : Byte) :
    (b3 ++ b2 ++ b1 ++ b0 : BitVec 32).extractLsb' 0 16 = b1 ++ b0 := by
  rw [append_bytes_eq_halves]
  exact BitVec.extractLsb'_append_eq_right

theorem highHalf_append_bytes (b3 b2 b1 b0 : Byte) :
    (b3 ++ b2 ++ b1 ++ b0 : BitVec 32).extractLsb' 16 16 = b3 ++ b2 := by
  rw [append_bytes_eq_halves]
  exact BitVec.extractLsb'_append_eq_left

/-- The model's reading of a 16-bit pattern is the library's two's-complement one (R6). -/
theorem i16_eq_toInt (v : BitVec 16) : i16 v = v.toInt := by
  rw [i16, BitVec.toInt_eq_toNat_cond]
  split <;> split <;> omega

theorem i16_bounds (v : BitVec 16) : -32768 ≤ i16 v ∧ i16 v ≤ 32767 := by
  rw [i16_eq_toInt]
  exact ⟨v.le_toInt, v.toInt_le⟩

/-- Settles O13: the halves of the data are the byte pairs the parsers read, low byte first (R45). -/
theorem motionResultIsTheParsedFrame : Obligations.MotionResultIsTheParsedFrame := by
  intro r
  exact ⟨congrArg i16 (lowHalf_append_bytes ..), congrArg i16 (highHalf_append_bytes ..),
    congrArg i16 (lowHalf_append_bytes ..), congrArg i16 (highHalf_append_bytes ..),
    fun v => ⟨i16_eq_toInt v, i16_bounds v⟩⟩

end Sys2Proof.Proofs
end

section
/-! PROOFS. The reference invariant at reset (R29, R190). -/

namespace Sys2Proof.Proofs

open Sys2Proof.Machine Sys2Proof.Safety

/-- The reset state is idle and in `UNINIT`, so the invariant's clauses on `READY` and on a running program ask nothing. -/
theorem reference_resetWith (t : CalTab) : Reference t (State.resetWith t) where
  rom := rfl
  noFrame := rfl
  noUndefRead := rfl
  status := (by decide : (0 : BitVec 3) ≠ Status.ufault.code ∧ (0 : BitVec 3) ≠ 7)
  identity := nofun
  idle _ := ⟨rfl, rfl⟩
  running := nofun

/-- Settles O53: no clause depends on the calibration table, and the block's own is legal by its construction. -/
theorem resetMeetsTheReferenceInvariant : Obligations.ResetMeetsTheReferenceInvariant :=
  ⟨reference_resetWith, calTab_valid, reference_resetWith Config.calTab⟩

end Sys2Proof.Proofs
end

section
/-! PROOFS. What a step does when `rst_n` is high, told apart by the frame slot and by `BUSY` (R12, R60, R101). -/

namespace Sys2Proof.Proofs

open Sys2Proof.Machine Sys2Proof.Safety

/-! ## What the codes that are no micro-op words run -/

/-- A command word's meaning is the dispatch of its two fields. -/
theorem exec_of_decodeCmd (w : BitVec 35) (i : Instr) (decoded : decodeCmd w = .ok i) (s : State) :
    exec i s = .next (dispatch (w.extractLsb' 32 3) (w.extractLsb' 0 32) s) := by
  unfold decodeCmd at decoded
  split at decoded <;> cases decoded <;> simp only [*] <;> rfl

/-- Of what a transfer receives at most `RB` and `FB` keep something (R17, R23, R60). -/
def KeepsInFrameRegs (keep : List Byte → State → State) : Prop :=
  ∀ rx u, ∃ rb fb, keep rx u = u.setRegs { u.regs with rb := rb, fb := fb }

/-- A frame's meaning is one transfer. -/
theorem exec_of_decodeFrame (bytes : List Byte) (i : Instr) (decoded : decodeFrame bytes = .ok i) (s : State) :
    ∃ tx keep, exec i s = .next (transfer s tx keep) ∧ KeepsInFrameRegs keep := by
  unfold decodeFrame at decoded
  split at decoded <;> split at decoded
  · cases decoded; exact ⟨_, _, rfl, fun _ _ => ⟨_, _, rfl⟩⟩
  · split at decoded <;> cases decoded
    exact ⟨_, _, rfl, fun _ _ => ⟨_, _, rfl⟩⟩
  · cases decoded; exact ⟨_, _, rfl, fun _ _ => ⟨_, _, rfl⟩⟩
  · cases decoded

/-! ## What is fetched -/

theorem nextWork_live (s : State) (live : resetNext s = false) : nextWork s = pendingWork s := by
  unfold nextWork
  unfold resetNext at live
  split at live <;> simp_all

theorem resetNext_of_nextWork (s : State) (cut : Option Nat) (work : nextWork s = .reset cut) : resetNext s = true := by
  by_contra live
  rw [nextWork_live s (Bool.eq_false_of_not_eq_true live)] at work
  unfold pendingWork at work
  split at work
  · cases work
  · split at work <;> split at work <;> cases work

theorem step_reset (s : State) (reset : resetNext s = true) : ∃ cut, step s = .next (resetStep cut s) := by
  unfold resetNext at reset
  split at reset
  next host => exact ⟨none, by simp [step, nextWork, host]⟩
  next n _ host => exact ⟨some n, by simp [step, nextWork, host]⟩
  next => cases reset

/-- Where the code about to run comes from. -/
theorem pendingWork_code (s : State) (c : Code) (work : pendingWork s = .code c) :
    (∃ bytes, s.frame = some bytes ∧ c = .frame bytes) ∨
    (s.frame = none ∧ s.busy = true ∧ ∃ w, s.rom.read s.upc.toNat = some w ∧ c = .uop w) ∨
    (s.frame = none ∧ s.busy = false ∧ ∃ op arg rest, s.env.host = .cmd op arg :: rest ∧ c = .cmd (cmdWord op arg)) := by
  unfold pendingWork at work
  split at work
  next bytes slot => cases work; exact .inl ⟨bytes, slot, rfl⟩
  next slot =>
    split at work
    next busy =>
      split at work
      next w read => cases work; exact .inr (.inl ⟨slot, busy, w, read, rfl⟩)
      next => cases work
    next idle =>
      split at work
      next op arg rest host =>
        cases work
        exact .inr (.inr ⟨slot, Bool.eq_false_of_not_eq_true idle, op, arg, rest, host, rfl⟩)
      next => cases work

theorem pendingWork_quiet (s : State) (work : pendingWork s = .quiet) : s.busy = false := by
  unfold pendingWork at work
  split at work
  · cases work
  · split at work
    · split at work <;> cases work
    next idle => exact Bool.eq_false_of_not_eq_true idle

/-! ## The step with `rst_n` high -/

/-- What a step without reset that gives a next state makes of `s`. -/
inductive LiveStep (s : State) : State → Prop where
  /-- An idle instant (R101). -/
  | quiet (idle : s.busy = false) : LiveStep s (beginStep s)
  /-- The frame in the transport's slot (R60). -/
  | frame (bytes tx : List Byte) (keep : List Byte → State → State) (slot : s.frame = some bytes)
      (kept : KeepsInFrameRegs keep) : LiveStep s (transfer (beginStep s) tx keep)
  /-- The command presented to the idle block, reserved or not (R100). -/
  | command (op : BitVec 3) (arg : Word) (idle : s.busy = false) : LiveStep s (dispatch op arg (beginStep s))
  /-- The micro-op whose word stands at `UPC` (R101). -/
  | word {t : State} (w : UWord) (i : Instr) (busy : s.busy = true) (read : s.rom.read s.upc.toNat = some w)
      (decoded : decodeUop w = .ok i) (meaning : exec i (beginStep s) = .next t) : LiveStep s t
  /-- An illegal word at `UPC` (R111). -/
  | illegal (busy : s.busy = true) : LiveStep s (uFault (beginStep s))

theorem code_live (s t : State) (c : Code) (work : pendingWork s = .code c)
    (h : (∃ i, decode c = .ok i ∧ exec i (beginStep s) = .next t) ∨
      (∃ e, decode c = .error e ∧ illegalCode c (beginStep s) = .next t)) : LiveStep s t := by
  rcases pendingWork_code s c work with ⟨bytes, slot, rfl⟩ | ⟨-, busy, w, read, rfl⟩ | ⟨-, idle, op, arg, rest, -, rfl⟩
  · rcases h with ⟨i, decoded, h⟩ | ⟨-, -, h⟩
    · obtain ⟨tx, keep, meaning, kept⟩ := exec_of_decodeFrame bytes i decoded (beginStep s)
      obtain rfl := Host.Outcome.next.inj (meaning.symm.trans h)
      exact .frame bytes tx keep slot kept
    · cases h
  · rcases h with ⟨i, decoded, h⟩ | ⟨-, -, h⟩
    · exact .word w i busy read decoded h
    · cases h; exact .illegal busy
  · rcases h with ⟨i, decoded, h⟩ | ⟨-, -, h⟩
    · obtain rfl := Host.Outcome.next.inj ((exec_of_decodeCmd _ i decoded (beginStep s)).symm.trans h)
      exact .command _ _ idle
    · cases h; exact .command _ _ idle

/-- Everything a step without reset can do. -/
theorem step_live (s t : State) (live : resetNext s = false) (h : step s = .next t) : LiveStep s t := by
  rcases step_cases s with ⟨cut, work, -⟩ | ⟨-, hs⟩ | ⟨work, hs⟩ | ⟨c, i, work, decoded, hs⟩ | ⟨c, e, work, illegal, hs⟩
  · rw [resetNext_of_nextWork s cut work] at live; cases live
  · rw [hs] at h; cases h
  · rw [hs] at h
    obtain rfl := Host.Outcome.next.inj h
    exact .quiet (pendingWork_quiet s (nextWork_live s live ▸ work))
  · exact code_live s t c (nextWork_live s live ▸ work) (.inl ⟨i, decoded, hs ▸ h⟩)
  · exact code_live s t c (nextWork_live s live ▸ work) (.inr ⟨e, illegal, hs ▸ h⟩)

end Sys2Proof.Proofs
end

section
/-! PROOFS. Chip-select discipline, and the balance of commands and responses (R12, R16, R80, R81). -/

namespace Sys2Proof.Proofs

open Sys2Proof.Machine Sys2Proof.Safety

/-! ## Walking and counting along a trace -/

theorem csWalk_append (high : Bool) (evs more : List Event) :
    csWalk high (evs ++ more) = (csWalk high evs).bind (csWalk · more) := by
  induction evs generalizing high with
  | nil => rfl
  | cons ev rest ih => cases ev <;> cases high <;> simp [csWalk, ih]

theorem cmdCount_append (evs more : List Event) : cmdCount (evs ++ more) = cmdCount evs + cmdCount more := by
  induction evs with
  | nil => simp [cmdCount]
  | cons ev rest ih => cases ev <;> simp [cmdCount, ih]; omega

theorem rspCount_append (evs more : List Event) : rspCount (evs ++ more) = rspCount evs + rspCount more := by
  induction evs with
  | nil => simp [rspCount]
  | cons ev rest ih => cases ev <;> simp [rspCount, ih]; omega

/-- The bytes of a transfer leave chip-select low and are no command and no response. -/
theorem byteEvents_walk (tx rx : List Byte) :
    csWalk false (byteEvents tx rx) = some false ∧ cmdCount (byteEvents tx rx) = 0 ∧ rspCount (byteEvents tx rx) = 0 := by
  induction tx generalizing rx with
  | nil => exact ⟨rfl, rfl, rfl⟩
  | cons b rest ih => cases rx <;> simp_all [byteEvents, csWalk, cmdCount, rspCount]

theorem window_walk (tx rx : List Byte) :
    csWalk true (window tx rx) = some true ∧ cmdCount (window tx rx) = 0 ∧ rspCount (window tx rx) = 0 := by
  simp [window, csWalk, cmdCount, rspCount, csWalk_append, cmdCount_append, rspCount_append, byteEvents_walk]

theorem events_append (tr more : Trace) : events (tr ++ more) = events tr ++ events more := List.map_append

/-! ## What each operation adds to the trace -/

/-- The events added walk chip-select from the level `s` has to the level `t` has. -/
def Walks (s t : State) : Prop := ∃ evs, Adds s t evs ∧ csWalk s.csN evs = some t.csN

/-- How many accepted commands are still to be answered. -/
def openCommands (s : State) : Nat := if s.busy then 1 else 0

/-- The events added walk chip-select, and open and answer commands as `BUSY` says. -/
def Accounts (s t : State) : Prop :=
  ∃ evs, Adds s t evs ∧ csWalk s.csN evs = some t.csN ∧
    cmdCount evs + openCommands s = rspCount evs + openCommands t

theorem adds_trans {s t u : State} {evs more : List Event} (h₁ : Adds s t evs) (h₂ : Adds t u more) :
    Adds s u (evs ++ more) := by
  obtain ⟨new, grown, rfl⟩ := h₁
  obtain ⟨new', grown', rfl⟩ := h₂
  exact ⟨new ++ new', by rw [grown', grown, List.append_assoc], events_append new new'⟩

theorem adds_nil {s t : State} (h : t.trace = s.trace) : Adds s t [] := ⟨[], by rw [h, List.append_nil], rfl⟩

namespace Accounts

theorem walks {s t : State} (h : Accounts s t) : Walks s t := by
  obtain ⟨evs, adds, walk, -⟩ := h
  exact ⟨evs, adds, walk⟩

/-- Nothing that counts has changed. -/
theorem of_same {s t : State} (trace : t.trace = s.trace) (csN : t.csN = s.csN) (busy : t.busy = s.busy) :
    Accounts s t :=
  ⟨[], adds_nil trace, congrArg some csN.symm, by simp [cmdCount, rspCount, openCommands, busy]⟩

theorem trans {s t u : State} (h₁ : Accounts s t) (h₂ : Accounts t u) : Accounts s u := by
  obtain ⟨evs, adds, walk, count⟩ := h₁
  obtain ⟨evs', adds', walk', count'⟩ := h₂
  refine ⟨evs ++ evs', adds_trans adds adds', by rw [csWalk_append, walk]; exact walk', ?_⟩
  rw [cmdCount_append, rspCount_append]
  omega

end Accounts

theorem OnlyCoreMoved.accounts {s t : State} (h : OnlyCoreMoved s t) : Accounts s t := by
  rw [h]
  exact .of_same rfl rfl rfl

theorem respond_accounts (s : State) (status : Status) (data : Word) (busy : s.busy = true) (high : s.csN = true) :
    Accounts s (s.respond status data) :=
  ⟨[.rsp status.code data], ⟨_, rfl, rfl⟩, by simp [csWalk, high], by simp [cmdCount, rspCount, openCommands, busy]⟩

theorem uFault_accounts (s : State) (busy : s.busy = true) : Accounts s (uFault s) := by
  rw [uFault_eq]
  refine ⟨(if s.csN then [] else [.csh]) ++ [.rsp 5 0], ⟨_, rfl, ?_⟩, ?_, ?_⟩ <;>
    cases high : s.csN <;> simp [afterUFault, events, csWalk, cmdCount, rspCount, openCommands, busy, high]

theorem xfer_accounts (s : State) (tx : List Byte) (high : s.csN = true) : Accounts s (xfer s tx).2 := by
  obtain ⟨new, grown, evs⟩ := xfer_trace s tx
  obtain ⟨walk, cmds, rsps⟩ := window_walk tx (xfer s tx).1
  have moved := xfer_only_bus s tx high
  exact ⟨_, ⟨new, grown, evs⟩, by rw [moved, high, walk], by rw [cmds, rsps, moved]; rfl⟩

theorem dispatch_accounts (op : BitVec 3) (arg : Word) (s : State) (idle : s.busy = false) (high : s.csN = true) :
    Accounts s (dispatch op arg s) := by
  obtain ⟨-, h⟩ | ⟨-, -, h⟩ | ⟨-, -, h⟩ := dispatch_cases op arg s idle <;> rw [h]
  · exact ⟨[.cmd op arg, .rsp 6 0], ⟨_, List.append_assoc .., rfl⟩, by simp [csWalk, high],
      by simp [cmdCount, rspCount, openCommands, idle]⟩
  · exact ⟨[.cmd op arg, .rsp 4 0], ⟨_, List.append_assoc .., rfl⟩, by simp [csWalk, high],
      by simp [cmdCount, rspCount, openCommands, idle]⟩
  · exact ⟨[.cmd op arg], ⟨_, rfl, rfl⟩, by simp [csWalk, high], by simp [cmdCount, rspCount, openCommands, idle]⟩

theorem ExecEffect.accounts {i : Instr} {s t : State} (h : ExecEffect i s t) (busy : s.busy = true) : Accounts s t := by
  cases h with
  | core moved => exact moved.accounts
  | ufault written => exact .trans (.of_same rfl rfl rfl) (uFault_accounts (s.noteRead written) busy)
  | select instr high =>
    exact ⟨[.csl], ⟨_, rfl, rfl⟩, by simp [csWalk, high], by simp [cmdCount, rspCount, openCommands]; rfl⟩
  | release instr low =>
    exact ⟨[.csh], ⟨_, rfl, rfl⟩, by simp [csWalk, low], by simp [cmdCount, rspCount, openCommands]; rfl⟩
  | sent tx bytes high moved =>
    exact .trans (.trans (.of_same rfl rfl rfl) (xfer_accounts (s.noteRead _) tx high)) moved.accounts
  | ended status result next instr encodable high =>
    exact .trans (.of_same rfl rfl rfl) (respond_accounts _ status _ busy high)
  | dispatched op arg => rw [dispatch_busy op arg s busy]; exact .of_same rfl rfl rfl

/-- From a quiescent idle block, or from a running one, every step without reset accounts for its events. -/
theorem LiveStep.accounts {s t : State} (h : LiveStep s t) (idle : s.busy = false → Quiescent s) : Accounts s t := by
  have begun : Accounts s (beginStep s) := .of_same rfl rfl rfl
  refine begun.trans ?_
  cases h with
  | quiet => exact .of_same rfl rfl rfl
  | frame bytes tx keep slot kept =>
    cases high : s.csN with
    | true =>
      obtain ⟨rb, fb, hr⟩ := kept (xfer (beginStep s) tx).1 (xfer (beginStep s) tx).2
      rw [transfer_high (beginStep s) _ _ high, hr]
      exact (xfer_accounts (beginStep s) tx high).trans (.of_same rfl rfl rfl)
    | false =>
      have busy : s.busy = true := by
        by_contra notBusy
        rw [(idle (Bool.eq_false_of_not_eq_true notBusy)).1] at high
        cases high
      rw [transfer_low (beginStep s) _ _ high]
      exact uFault_accounts _ busy
  | command op arg notBusy => exact dispatch_accounts op arg _ notBusy (idle notBusy).1
  | word w i busy read decoded meaning => exact (exec_effect i _ t meaning).accounts busy
  | illegal busy => exact uFault_accounts _ busy

/-! ## A reset -/

theorem hardReset_adds (s : State) : Adds s (hardReset s) (if s.csN then [] else [.csh]) := by
  rw [hardReset_eq]
  cases s.csN with
  | true => exact adds_nil rfl
  | false => exact ⟨_, rfl, rfl⟩

theorem hardReset_walks (s : State) : Walks s (hardReset s) := by
  refine ⟨_, hardReset_adds s, ?_⟩
  rw [hardReset_eq]
  cases s.csN <;> rfl

theorem Walks.trans {s t u : State} (h₁ : Walks s t) (h₂ : Walks t u) : Walks s u := by
  obtain ⟨evs, adds, walk⟩ := h₁
  obtain ⟨evs', adds', walk'⟩ := h₂
  exact ⟨evs ++ evs', adds_trans adds adds', by rw [csWalk_append, walk]; exact walk'⟩

theorem cutTransfer_csN (s : State) (tx : List Byte) (n : Nat) : (cutTransfer s tx n).csN = false := by
  rw [cutTransfer_only_bus s tx n]
  rfl

theorem cutTransfer_walks (s : State) (tx : List Byte) (n : Nat) (high : s.csN = true) : Walks s (cutTransfer s tx n) := by
  obtain ⟨rx, new, -, grown, evs⟩ := cutTransfer_trace s tx n
  exact ⟨_, ⟨new, grown, evs⟩, by rw [high, cutTransfer_csN]; exact (byteEvents_walk _ _).1⟩

theorem pendingTransfer_high (s : State) (tx : List Byte) (bytes : pendingTransfer s = some tx) : s.csN = true := by
  unfold pendingTransfer at bytes
  split at bytes
  · split at bytes
    · assumption
    · cases bytes
  · cases bytes

/-- A reset falls between two micro-ops, or inside the transfer about to be made. -/
theorem reset_cases (cut : Option Nat) (s : State) :
    (cut = none ∨ pendingTransfer s = none) ∨ ∃ n tx, cut = some n ∧ pendingTransfer s = some tx := by
  cases cut with
  | none => exact .inl (.inl rfl)
  | some n =>
    cases bytes : pendingTransfer s with
    | none => exact .inl (.inr rfl)
    | some tx => exact .inr ⟨n, tx, rfl, rfl⟩

theorem resetStep_walks (cut : Option Nat) (s : State) : Walks s (resetStep cut s) := by
  rcases reset_cases cut s with between | ⟨n, tx, rfl, bytes⟩
  · have begun : Walks s (beginStep s) := ⟨[], adds_nil rfl, rfl⟩
    rw [resetStep_between cut s between]
    exact begun.trans (hardReset_walks _)
  · have noted : Walks s ((beginStep s).noteRead (pendingWritten s)) := ⟨[], adds_nil rfl, rfl⟩
    rw [resetStep_inside n s tx bytes]
    exact (noted.trans (cutTransfer_walks _ tx n (pendingTransfer_high s tx bytes))).trans (hardReset_walks _)

/-! ## Quiescence when idle -/

theorem uFault_quiescent (s : State) : Quiescent (uFault s) := by
  rw [uFault_eq]
  exact ⟨rfl, rfl⟩

theorem ExecEffect.quiescent {i : Instr} {s t : State} (h : ExecEffect i s t) (busy : s.busy = true)
    (idle : t.busy = false) : Quiescent t := by
  cases h with
  | core moved => rw [moved] at idle; exact absurd busy (by simpa using idle)
  | ufault => exact uFault_quiescent _
  | select | release => exact absurd busy (by simpa using idle)
  | sent tx bytes high moved =>
    rw [moved, xfer_only_bus (s.noteRead _) tx high] at idle
    exact absurd busy (by simpa using idle)
  | ended status result next instr encodable high => exact ⟨high, rfl⟩
  | dispatched op arg => rw [dispatch_busy op arg s busy, busy] at idle; cases idle

theorem dispatch_quiescent (op : BitVec 3) (arg : Word) (s : State) (notBusy : s.busy = false) (quiescent : Quiescent s) :
    Quiescent (dispatch op arg s) := by
  obtain ⟨high, free⟩ := quiescent
  obtain ⟨-, h⟩ | ⟨-, -, h⟩ | ⟨-, -, h⟩ := dispatch_cases op arg s notBusy <;> rw [h]
  · exact ⟨high, rfl⟩
  · exact ⟨high, rfl⟩
  · exact ⟨high, free⟩

theorem LiveStep.quiescent {s t : State} (h : LiveStep s t) (idle : s.busy = false → Quiescent s) (ends : t.busy = false) :
    Quiescent t := by
  cases h with
  | quiet notBusy => exact idle notBusy
  | frame bytes tx keep slot kept =>
    cases high : s.csN with
    | true =>
      obtain ⟨rb, fb, hr⟩ := kept (xfer (beginStep s) tx).1 (xfer (beginStep s) tx).2
      rw [transfer_high (beginStep s) _ _ high, hr, xfer_only_bus (beginStep s) tx high] at ends ⊢
      exact idle ends
    | false => rw [transfer_low (beginStep s) _ _ high]; exact uFault_quiescent _
  | command op arg notBusy => exact dispatch_quiescent op arg _ notBusy (idle notBusy)
  | word w i busy read decoded meaning => exact (exec_effect i _ t meaning).quiescent busy ends
  | illegal => exact uFault_quiescent _

/-! ## The invariant -/

theorem resetStep_quiescent (cut : Option Nat) (s : State) : Quiescent (resetStep cut s) := by
  unfold resetStep
  split <;> rw [hardReset_eq] <;> exact ⟨rfl, rfl⟩

/-- A well-framed trace stays so when what is added walks chip-select. -/
theorem Walks.framed {s t : State} (h : Walks s t) (framed : csWalk true (events s.trace) = some s.csN) :
    csWalk true (events t.trace) = some t.csN := by
  obtain ⟨evs, ⟨new, grown, rfl⟩, walk⟩ := h
  rw [grown, events_append, csWalk_append, framed]
  exact walk

/-- Settles O48: the events of every kind of step walk chip-select, and `BUSY` falls with chip-select high only. -/
theorem stepKeepsChipSelectDiscipline : Obligations.StepKeepsChipSelectDiscipline := by
  rintro s t ⟨idle, framed⟩ h
  cases live : resetNext s with
  | true =>
    obtain ⟨cut, hs⟩ := step_reset s live
    obtain rfl := Host.Outcome.next.inj (hs.symm.trans h)
    exact ⟨fun _ => resetStep_quiescent cut s, (resetStep_walks cut s).framed framed⟩
  | false =>
    have effect := step_live s t live h
    exact ⟨effect.quiescent idle, (effect.accounts idle).walks.framed framed⟩

/-- Settles O47: the empty trace ends high, and so is chip-select. -/
theorem resetIsDisciplined : Obligations.ResetIsDisciplined := fun _ => ⟨fun _ => ⟨rfl, rfl⟩, rfl⟩

/-- Settles O49: every step without reset accounts for the commands and responses it adds. -/
theorem commandsAndResponsesStayInBalance : Obligations.CommandsAndResponsesStayInBalance := by
  rintro s t ⟨idle, -⟩ live h
  obtain ⟨evs, ⟨new, grown, rfl⟩, -, count⟩ := (step_live s t live h).accounts idle
  unfold openCommands at count
  rw [grown, events_append, cmdCount_append, rspCount_append]
  omega

end Sys2Proof.Proofs
end

section
/-! PROOFS. What each micro-op makes of the state: branches, transforms and `END` (R104 to R110, R131, R142, R150 to R152,
R160). -/

namespace Sys2Proof.Proofs

open Sys2Proof.Machine Sys2Proof.Safety

/-! ## Branches -/

/-- A branch whose condition reads registers of this mark. -/
theorem branch_noteRead (cond written : Bool) (target : UAddr) (s : State) :
    branch cond target (s.noteRead written) =
      { s with upc := if cond then target else s.upc + 1, undefRead := s.undefRead || !written } := branch_eq ..

/-- The same with the condition as the spec words it. -/
theorem branch_noteRead_iff {cond : Bool} {p : Prop} [Decidable p] (h : cond = true ↔ p) (written : Bool) (target : UAddr)
    (s : State) :
    branch cond target (s.noteRead written) =
      { s with upc := if p then target else s.upc + 1, undefRead := s.undefRead || !written } := by
  rw [branch_noteRead]
  simp only [h]

/-- The same for a condition that the spec words by when the branch is not taken. -/
theorem branch_noteRead_unless {cond : Bool} {p : Prop} [Decidable p] (h : cond = true ↔ ¬p) (written : Bool)
    (target : UAddr) (s : State) :
    branch cond target (s.noteRead written) =
      { s with upc := if p then s.upc + 1 else target, undefRead := s.undefRead || !written } := by
  rw [branch_noteRead_iff h, ite_not]

theorem branch_noteRead_taken {cond : Bool} (h : cond = true) (written : Bool) (target : UAddr) (s : State) :
    branch cond target (s.noteRead written) = { s with upc := target, undefRead := s.undefRead || !written } := by
  rw [branch_noteRead, if_pos h]

theorem getLsbD_seven_iff (v : Byte) : v.getLsbD 7 = true ↔ 0x80 ≤ v.toNat := by
  have top : v.getLsbD 7 = v.msb := rfl
  rw [top, BitVec.msb_eq_decide, decide_eq_true_iff]

theorem qok_iff (s : State) : s.qok = true ↔ 0x19 < (s.regs.fb.val[7]).toNat := decide_eq_true_iff

theorem idbad_iff (s : State) : s.idbad = true ↔ s.regs.pidr.val ≠ 0x49 ∨ s.regs.revr.val ≠ 0x00 := by
  rw [State.idbad, decide_eq_true_iff, idExpect, Ne, Prod.mk.injEq, not_and_or]

theorem argbad_iff (s : State) : s.argbad = true ↔ s.regs.arg.val.toNat ∉ [0, 90, 180, 270] := by
  simp [State.argbad, ← BitVec.toNat_inj]

/-- Elapsed time is the difference modulo 2^32 (R11). -/
theorem elapsed_toNat (s : State) (stamp : Word) :
    (s.elapsed stamp).toNat = (2 ^ 32 + s.env.now.toNat - stamp.toNat) % 2 ^ 32 := by
  have := stamp.isLt
  rw [State.elapsed, BitVec.toNat_sub]
  omega

theorem tmo_iff (s : State) :
    s.tmo = true ↔ s.regs.arg.val.toNat ≤ (2 ^ 32 + s.env.now.toNat - s.regs.tstart.val.toNat) % 2 ^ 32 := by
  rw [State.tmo, decide_eq_true_iff, elapsed_toNat]

/-- Settles O23. -/
theorem readbackBranches : Obligations.ReadbackBranches := by
  intro target s
  have bb7 : s.rb7 = true ↔ _ := getLsbD_seven_iff s.regs.rb.val
  have bnz : s.rbnz = true ↔ ¬s.regs.rb.val = 0x00 := decide_eq_true_iff
  exact ⟨rfl, ⟨_, congrArg _ (branch_noteRead_iff bb7 ..)⟩, ⟨_, congrArg _ (branch_noteRead_unless bnz ..)⟩,
    rfl, rfl, rfl⟩

/-- Settles O24. -/
theorem sampleGates : Obligations.SampleGates := by
  intro target s
  have drdy : s.drdy = true ↔ _ := getLsbD_seven_iff (s.regs.pb[0]).val
  exact ⟨⟨_, congrArg _ (branch_noteRead_iff (qok_iff s) ..)⟩, ⟨_, congrArg _ (branch_noteRead_iff drdy ..)⟩, rfl, rfl⟩

/-- Settles O25. -/
theorem identityAndArgumentChecks : Obligations.IdentityAndArgumentChecks := by
  intro target s
  exact ⟨⟨_, congrArg _ (branch_noteRead_iff (idbad_iff s) ..)⟩,
    ⟨_, congrArg _ (branch_noteRead_unless (argbad_iff s) ..)⟩, rfl, rfl⟩

/-- Settles O26: with `ARG` zero, any elapsed time is at least the timeout. -/
theorem loopTiming : Obligations.LoopTiming := by
  intro target s
  have atOnce (zero : s.regs.arg.val = 0) : s.tmo = true := (tmo_iff s).mpr (by simp [zero])
  exact ⟨rfl, ⟨_, congrArg _ (branch_noteRead_iff (tmo_iff s) ..)⟩,
    fun zero => ⟨_, congrArg _ (branch_noteRead_taken (atOnce zero) ..)⟩, rfl, rfl⟩

/-! ## Transforms -/

/-- `XF1` in closed form, on unbounded integers (R107). -/
theorem xf1_closed (n : Nat) :
    max 0 (min 0x3F (xf1Add11 (xf1Add14 n))) =
      if n ≤ 14 then n + 14 else if n ≤ 28 then n + 25 else if n ≤ 52 then n + 11 else 63 := by
  unfold xf1Add11 xf1Add14
  split_ifs <;> omega

theorem xf1_toNat (c : Byte) :
    (xf1 c).toNat = if c.toNat ≤ 14 then c.toNat + 14 else if c.toNat ≤ 28 then c.toNat + 25
      else if c.toNat ≤ 52 then c.toNat + 11 else 63 := by
  rw [xf1, xf1_closed, BitVec.toNat_ofNat]
  split_ifs <;> omega

theorem xf1_eq (c : Byte) :
    xf1 c = if c.toNat ≤ 14 then c + 14 else if c.toNat ≤ 28 then c + 25 else if c.toNat ≤ 52 then c + 11 else 63 := by
  apply BitVec.eq_of_toNat_eq
  rw [xf1_toNat]
  split_ifs <;> simp [BitVec.toNat_add] <;> omega

/-- Settles O27: each piece of the closed form gives its own range. -/
theorem xf1ClosedForm : Obligations.Xf1ClosedForm := by
  intro s c out
  have value : out = xf1 c := (xf1_eq c).symm
  rw [value, xf1_toNat]
  exact ⟨⟨_, rfl⟩, by split_ifs <;> omega, by split_ifs <;> omega, by split_ifs <;> omega, rfl⟩

/-- Settles O28: a byte times 45 over 100 is a byte again. -/
theorem xf2TruncatesTheProduct : Obligations.Xf2TruncatesTheProduct := by
  intro s
  have small := s.regs.c2.val.isLt
  have value : (xf2 s.regs.c2.val).toNat = s.regs.c2.val.toNat * 45 / 100 := by
    rw [xf2, BitVec.toNat_ofNat]
    omega
  exact ⟨xf2 s.regs.c2.val, value, by omega, ⟨_, rfl⟩, rfl⟩

/-! ## `END` -/

theorem encodable_iff (status : Status) : status.encodable = true ↔ status.code.toNat ≤ 3 := by
  cases status <;> decide

/-- `END` that is not refused (R110). -/
theorem execEnd_responds (status : Status) (result : ResultSel) (next : NextSel) (s : State)
    (encodable : status.encodable = true) (high : s.csN = true) :
    execEnd status result next s =
      .next (((s.noteRead (endWritten status result s.regs)).setLife (NextSel.apply next s.life)).respond status
        (endData status result s.regs)) := by
  rw [execEnd, if_pos (by rw [encodable, high]; rfl)]

theorem execEnd_refused (status : Status) (result : ResultSel) (next : NextSel) (s : State)
    (refused : ¬(status.encodable = true ∧ s.csN = true)) : execEnd status result next s = .next (uFault s) := by
  rw [execEnd, if_neg (by rwa [Bool.and_eq_true])]

/-- Settles O12. -/
theorem endResponds : Obligations.EndResponds := by
  intro status result next s
  refine ⟨?_, fun refused => ?_, rfl, rfl, rfl⟩
  · intro code high data
    refine ⟨s.undefRead || !endWritten status result s.regs, (execEnd_responds status result next s ((encodable_iff status).mpr code) high).trans ?_⟩
    cases result <;> cases next <;> rfl
  · refine (execEnd_refused status result next s fun ⟨encodable, high⟩ => ?_).trans (congrArg _ (uFault_eq s))
    rcases refused with above | low
    · exact absurd ((encodable_iff status).mp encodable) (by omega)
    · rw [high] at low; cases low

end Sys2Proof.Proofs
end

section
/-! PROOFS. What a step runs, and what it leaves to the host (R12, R60, R101). -/

namespace Sys2Proof.Proofs

open Sys2Proof.Machine Sys2Proof.Safety

/-! ## The step forwards -/

theorem step_of_pendingWork (s : State) (c : Code) (i : Instr) (live : resetNext s = false)
    (work : pendingWork s = .code c) (decoded : decode c = .ok i) : step s = exec i (beginStep s) := by
  simp [step, nextWork_live s live, work, decoded]

theorem pendingWork_command (s : State) (op : BitVec 3) (arg : Word) (rest : List HostInput) (noFrame : s.frame = none)
    (idle : s.busy = false) (host : s.env.host = .cmd op arg :: rest) :
    pendingWork s = .code (.cmd (cmdWord op arg)) := by
  simp [pendingWork, noFrame, idle, host]

theorem beginStep_host (s : State) : (beginStep s).env.host = hostAfter s.ready s.env.host := rfl

theorem ready_of_idle (s : State) (noFrame : s.frame = none) (idle : s.busy = false) : s.ready = true := by
  simp [State.ready, noFrame, idle]

/-- A command presented to the idle block is accepted in that step. -/
theorem beginStep_host_command (s : State) (op : BitVec 3) (arg : Word) (rest : List HostInput) (noFrame : s.frame = none)
    (idle : s.busy = false) (host : s.env.host = .cmd op arg :: rest) : (beginStep s).env.host = rest := by
  rw [beginStep_host, ready_of_idle s noFrame idle, host]
  rfl

/-- A step of the idle block dispatches the command presented, reserved or not. -/
theorem step_command (s : State) (op : BitVec 3) (arg : Word) (rest : List HostInput) (noFrame : s.frame = none)
    (idle : s.busy = false) (host : s.env.host = .cmd op arg :: rest) :
    step s = .next (dispatch op arg (beginStep s)) := by
  have live : resetNext s = false := by simp [resetNext, host]
  have fields : dispatch ((cmdWord op arg).extractLsb' 32 3) ((cmdWord op arg).extractLsb' 0 32) (beginStep s) =
      dispatch op arg (beginStep s) := by rw [cmdWord_op, cmdWord_arg]
  rw [← fields]
  cases decoded : decodeCmd (cmdWord op arg) with
  | ok i =>
    rw [step_of_pendingWork s _ i live (pendingWork_command s op arg rest noFrame idle host) decoded]
    exact exec_of_decodeCmd _ i decoded _
  | error e =>
    simp [step, nextWork_live s live, pendingWork_command s op arg rest noFrame idle host, decode, decoded, illegalCode]

theorem step_idle (s : State) (noFrame : s.frame = none) (idle : s.busy = false) (live : resetNext s = false)
    (silent : ∀ op arg rest, s.env.host ≠ .cmd op arg :: rest) : step s = .next (beginStep s) := by
  have work : pendingWork s = .quiet := by
    unfold pendingWork
    rw [noFrame]
    simp only [idle, Bool.false_eq_true, if_false]
  simp [step, nextWork_live s live, work]

/-- Settles O7: of the three sources of a code, the one that is there is the one fetched. -/
theorem stepRunsDecodedInstruction : Obligations.StepRunsDecodedInstruction := by
  intro s i live
  refine ⟨fun w noFrame busy read decoded => step_running s w i live noFrame busy read decoded, ?_, ?_, rfl⟩
  · intro op arg rest noFrame idle host decoded
    exact ⟨step_of_pendingWork s _ i live (pendingWork_command s op arg rest noFrame idle host) decoded,
      beginStep_host_command s op arg rest noFrame idle host⟩
  · intro bytes slot decoded
    exact step_of_pendingWork s (.frame bytes) i live (by simp [pendingWork, slot]) decoded

/-! ## What no instruction does: read the host's inputs -/

/-- `t` is `s` after a dispatch: the registers it may write are `ARG`, `BUSY`, `UPC` and the response's. -/
def OnlyDispatched (s t : State) : Prop :=
  t = { s with
    regs := { s.regs with arg := t.regs.arg }, busy := t.busy, upc := t.upc, held := t.held, trace := t.trace,
    rspStatus := t.rspStatus, rspData := t.rspData, rspValid := t.rspValid }

theorem dispatch_only (op : BitVec 3) (arg : Word) (s : State) : OnlyDispatched s (dispatch op arg s) := by
  cases busy : s.busy with
  | true => rw [dispatch_busy op arg s busy]; rfl
  | false => obtain ⟨-, h⟩ | ⟨-, -, h⟩ | ⟨-, -, h⟩ := dispatch_cases op arg s busy <;> rw [h] <;> rfl

theorem dispatch_env (op : BitVec 3) (arg : Word) (s : State) : (dispatch op arg s).env = s.env := by
  rw [dispatch_only op arg s]

theorem uFault_env (s : State) : (uFault s).env = s.env := by
  rw [uFault_eq]
  rfl

theorem xfer_host (s : State) (tx : List Byte) (high : s.csN = true) : (xfer s tx).2.env.host = s.env.host := by
  rw [xfer_only_bus s tx high]

theorem ExecEffect.host {i : Instr} {s t : State} (h : ExecEffect i s t) : t.env.host = s.env.host := by
  cases h with
  | core moved => rw [moved]
  | ufault written => rw [uFault_env]; rfl
  | select | release | ended => rfl
  | sent tx bytes high moved => rw [moved]; exact xfer_host (s.noteRead _) tx high
  | dispatched op arg => rw [dispatch_env]

theorem LiveStep.host {s t : State} (h : LiveStep s t) : t.env.host = (beginStep s).env.host := by
  cases h with
  | quiet => rfl
  | frame bytes tx keep slot kept =>
    cases high : s.csN with
    | true =>
      obtain ⟨rb, fb, hr⟩ := kept (xfer (beginStep s) tx).1 (xfer (beginStep s) tx).2
      rw [transfer_high (beginStep s) _ _ high, hr]
      exact xfer_host (beginStep s) tx high
    | false => rw [transfer_low (beginStep s) _ _ high, uFault_env]
  | command op arg => rw [dispatch_env]
  | word w i busy read decoded meaning => exact (exec_effect i _ t meaning).host
  | illegal => rw [uFault_env]

/-- Settles O8: while `BUSY = 1` no step takes the command away, and the six commands' own meanings do nothing. -/
theorem busyBlockMakesCommandsWait : Obligations.BusyBlockMakesCommandsWait := by
  refine ⟨fun s idle noFrame live silent => ?_, fun s arg busy => ?_, fun s t op arg rest busy host h => ?_⟩
  · rw [step_idle s noFrame idle live silent, beginStep_eq, ready_of_idle s noFrame idle, noFrame]
  · have waits (op : BitVec 3) : Host.Outcome.next (dispatch op arg s) = (.next s : Result) := by
      rw [dispatch_busy op arg s busy]
    exact ⟨waits 0, waits 1, waits 2, waits 3, waits 4, waits 5⟩
  · have live : resetNext s = false := by simp [resetNext, host]
    have notReady : s.ready = false := by simp [State.ready, busy]
    rw [(step_live s t live h).host, beginStep_host, notReady, host]
    rfl

end Sys2Proof.Proofs
end

section
/-! PROOFS. Which steps change the lifecycle state (R13) and the identity pair (R19). -/

namespace Sys2Proof.Proofs

open Sys2Proof.Machine Sys2Proof.Safety

/-! ## The lifecycle state -/

theorem dispatch_life (op : BitVec 3) (arg : Word) (s : State) : (dispatch op arg s).life = s.life := by
  rw [dispatch_only op arg s]

theorem uFault_rspValid (s : State) : (uFault s).rspValid = true := rfl

theorem ExecEffect.life {i : Instr} {s t : State} (h : ExecEffect i s t) : t.life = s.life ∨ t.rspValid = true := by
  cases h with
  | core moved => rw [moved]; exact .inl rfl
  | ufault written => exact .inr (uFault_rspValid _)
  | select | release => exact .inl rfl
  | sent tx bytes high moved => rw [moved, xfer_only_bus (s.noteRead _) tx high]; exact .inl rfl
  | ended => exact .inr rfl
  | dispatched op arg => exact .inl (dispatch_life op arg s)

/-- Settles O51: `END` and `UFAULT` alone write `STATE`, and both respond. -/
theorem stateChangesOnlyWithAResponse : Obligations.StateChangesOnlyWithAResponse := by
  intro s t h changed
  cases step_effect s t h with
  | reset cut work => exact .inl (resetNext_of_nextWork s cut work)
  | resetInside n tx work => exact .inl (resetNext_of_nextWork s _ work)
  | quiet => exact absurd rfl changed
  | run c i work decoded effect => exact .inr (effect.life.resolve_left changed)
  | illegalWord => exact .inr (uFault_rspValid _)
  | reservedCommand => exact absurd (dispatch_life _ _ _) changed

/-! ## The identity pair -/

/-- `PIDR` and `REVR` are the same. -/
def KeepsIdentity (s t : State) : Prop := t.regs.pidr = s.regs.pidr ∧ t.regs.revr = s.regs.revr

theorem keepsIdentity_of_regs_eq {s t : State} (h : t.regs = s.regs) : KeepsIdentity s t := by
  rw [KeepsIdentity, h]
  exact ⟨rfl, rfl⟩

theorem uFault_regs (s : State) : (uFault s).regs = s.regs := by
  rw [uFault_eq]
  rfl

theorem xfer_regs (s : State) (tx : List Byte) (high : s.csN = true) : (xfer s tx).2.regs = s.regs := by
  rw [xfer_only_bus s tx high]

/-- A transfer keeps the pair when what it does with the bytes received does. -/
theorem transfer_keepsIdentity (s : State) (tx : List Byte) (keep : List Byte → State → State)
    (kept : ∀ rx u, KeepsIdentity u (keep rx u)) : KeepsIdentity s (transfer s tx keep) := by
  cases high : s.csN with
  | true =>
    rw [transfer_high s tx keep high, KeepsIdentity, ← xfer_regs s tx high]
    exact kept _ _
  | false => rw [transfer_low s tx keep high]; exact keepsIdentity_of_regs_eq (uFault_regs s)

theorem branch_regs (cond : Bool) (target : UAddr) (s : State) : (branch cond target s).regs = s.regs := by
  rw [branch_eq]

theorem waitTest_regs (ms : BitVec 16) (s : State) : (waitTest ms s).regs = s.regs := by
  unfold waitTest
  split <;> rfl

theorem dispatch_keepsIdentity (op : BitVec 3) (arg : Word) (s : State) : KeepsIdentity s (dispatch op arg s) := by
  rw [dispatch_only op arg s]
  exact ⟨rfl, rfl⟩

theorem guarded_keepsIdentity (s u : State) (ok : Bool) (kept : KeepsIdentity s u) :
    KeepsIdentity s (if ok then u else uFault s) := by
  cases ok with
  | true => exact kept
  | false => exact keepsIdentity_of_regs_eq (uFault_regs s)

/-- Only `RD` with one of the two as its destination writes the pair. -/
theorem exec_keepsIdentity (i : Instr) (s t : State) (h : exec i s = .next t)
    (other : ∀ reg dst, i = .rd reg dst → dst ≠ .pidr ∧ dst ≠ .revr) : KeepsIdentity s t := by
  have same (u : State) (hu : u.regs = s.regs) : KeepsIdentity s u := keepsIdentity_of_regs_eq hu
  cases i with
  | rd reg dst =>
    obtain rfl := Host.Outcome.next.inj h
    obtain ⟨notPidr, notRevr⟩ := other reg dst rfl
    refine guarded_keepsIdentity s _ _ (transfer_keepsIdentity s _ _ fun rx u => ?_)
    cases dst with
    | pidr => exact absurd rfl notPidr
    | revr => exact absurd rfl notRevr
    | discard | c1 | c2 | pb => exact ⟨rfl, rfl⟩
  | wr | burst =>
    obtain rfl := Host.Outcome.next.inj h
    exact guarded_keepsIdentity s _ _ (transfer_keepsIdentity s _ _ fun _ _ => ⟨rfl, rfl⟩)
  | wrr =>
    obtain rfl := Host.Outcome.next.inj h
    exact guarded_keepsIdentity s _ _ (transfer_keepsIdentity (s.noteRead _) _ _ fun _ _ => ⟨rfl, rfl⟩)
  | wFrame | rFrame | bFrame =>
    obtain rfl := Host.Outcome.next.inj h
    exact transfer_keepsIdentity s _ _ fun _ _ => ⟨rfl, rfl⟩
  | cslo | endOp =>
    obtain rfl := Host.Outcome.next.inj h
    exact guarded_keepsIdentity s _ _ ⟨rfl, rfl⟩
  | cshi =>
    obtain rfl := Host.Outcome.next.inj h
    split
    · exact same _ (uFault_regs s)
    · exact ⟨rfl, rfl⟩
  | wait ms =>
    obtain rfl := Host.Outcome.next.inj h
    split
    · exact same _ (waitTest_regs ms _)
    · rw [KeepsIdentity, waitTest_regs]; exact ⟨rfl, rfl⟩
  | omrot =>
    obtain rfl := Host.Outcome.next.inj h
    split
    · exact ⟨rfl, rfl⟩
    · exact same _ (uFault_regs _)
  | jmp | bb7 | bnz | bqok | bdrdy | btmo | bidbad | bargbad =>
    obtain rfl := Host.Outcome.next.inj h
    exact same _ (branch_regs _ _ _)
  | xf1 | xf2 | tstamp | omflg =>
    obtain rfl := Host.Outcome.next.inj h
    exact ⟨rfl, rfl⟩
  | init | getId | setRotation | setOrientation | getMotion | getMotionSlow =>
    obtain rfl := Host.Outcome.next.inj h
    exact dispatch_keepsIdentity _ _ s

/-- Settles O52. -/
theorem identityWrittenOnlyByRd : Obligations.IdentityWrittenOnlyByRd := by
  intro s t h changed
  have notKept : ¬KeepsIdentity s t := fun ⟨pidr, revr⟩ => changed.elim (· pidr) (· revr)
  cases live : resetNext s with
  | true => exact .inl rfl
  | false =>
    cases step_live s t live h with
    | quiet => exact absurd ⟨rfl, rfl⟩ notKept
    | frame bytes tx keep slot kept =>
      refine absurd (transfer_keepsIdentity (beginStep s) tx keep fun rx u => ?_) notKept
      obtain ⟨rb, fb, hk⟩ := kept rx u
      rw [hk]
      exact ⟨rfl, rfl⟩
    | command op arg => exact absurd (dispatch_keepsIdentity op arg (beginStep s)) notKept
    | illegal => exact absurd (keepsIdentity_of_regs_eq (uFault_regs (beginStep s))) notKept
    | word w i busy read decoded meaning =>
      by_cases rd : ∃ reg dst, i = .rd reg dst ∧ (dst = .pidr ∨ dst = .revr)
      · obtain ⟨reg, dst, rfl, selects⟩ := rd
        exact .inr ⟨busy, w, reg, dst, read, decoded, selects⟩
      · have other (reg : Byte) (dst : Dst) (hi : i = .rd reg dst) : dst ≠ .pidr ∧ dst ≠ .revr :=
          not_or.mp fun selects => rd ⟨reg, dst, hi, selects⟩
        exact absurd (exec_keepsIdentity i (beginStep s) t meaning other) notKept

end Sys2Proof.Proofs
end

section
/-! PROOFS. Which instructions mark the run (R29, R30). -/

namespace Sys2Proof.Proofs

open Sys2Proof.Machine Sys2Proof.Safety

/-- The meaning of `i` marks the run exactly when what it reads has this mark false. -/
def Marks (s : State) (i : Instr) (written : Bool) : Prop :=
  ∃ t, exec i s = .next t ∧ t.undefRead = (s.undefRead || !written)

theorem uFault_undefRead (s : State) : (uFault s).undefRead = s.undefRead := by
  rw [uFault_eq]
  rfl

theorem transfer_undefRead (s : State) (tx : List Byte) (keep : List Byte → State → State)
    (kept : ∀ rx u, (keep rx u).undefRead = u.undefRead) : (transfer s tx keep).undefRead = s.undefRead := by
  cases high : s.csN with
  | true => rw [transfer_high s tx keep high, kept, xfer_only_bus s tx high]
  | false => rw [transfer_low s tx keep high, uFault_undefRead]

theorem branch_undefRead (cond : Bool) (target : UAddr) (s : State) :
    (branch cond target s).undefRead = s.undefRead := by rw [branch_eq]

theorem waitTest_undefRead (ms : BitVec 16) (s : State) : (waitTest ms s).undefRead = s.undefRead := by
  unfold waitTest
  split <;> rfl

theorem dispatch_undefRead (op : BitVec 3) (arg : Word) (s : State) : (dispatch op arg s).undefRead = s.undefRead := by
  rw [dispatch_only op arg s]

section Marks
variable (s : State)

/-- An instruction whose next state has the mark of `s` reads nothing unwritten. -/
theorem marks_none {i : Instr} (t : State) (h : exec i s = .next t) (same : t.undefRead = s.undefRead) : Marks s i true :=
  ⟨t, h, by rw [same, Bool.not_true, Bool.or_false]⟩

theorem marks_branch {i : Instr} {cond written : Bool} {target : UAddr}
    (h : exec i s = .next (branch cond target (s.noteRead written))) : Marks s i written :=
  ⟨_, h, branch_undefRead _ _ _⟩

theorem marks_omrot : Marks s .omrot s.regs.arg.written := by
  refine ⟨_, rfl, ?_⟩
  split
  · rfl
  · exact uFault_undefRead _

theorem marks_wait (ms : BitVec 16) : Marks s (.wait ms) (!s.held || s.regs.t0.written) := by
  refine ⟨_, rfl, ?_⟩
  cases s.held with
  | true => exact waitTest_undefRead ms _
  | false => exact (waitTest_undefRead ms _).trans (Bool.or_false _).symm

theorem marks_wrr (reg : Byte) (src : Src) :
    Marks s (.wrr reg src) (reg.msb || !s.csN || (s.regs.readSrc src).written) := by
  refine ⟨_, rfl, ?_⟩
  rw [regOk]
  cases reg.msb with
  | true => exact (uFault_undefRead s).trans (Bool.or_false _).symm
  | false =>
    cases s.csN with
    | true => exact transfer_undefRead (s.noteRead (s.regs.readSrc src).written) _ (fun _ t => t.advance) fun _ _ => rfl
    | false => exact (uFault_undefRead s).trans (Bool.or_false _).symm

/-- `END` reads what `endWritten` says, unless it is refused. -/
theorem marks_end (status : Status) (result : ResultSel) (next : NextSel) :
    Marks s (.endOp status result next) (!status.encodable || !s.csN || endWritten status result s.regs) := by
  refine ⟨_, rfl, ?_⟩
  cases status.encodable with
  | false => exact (uFault_undefRead s).trans (Bool.or_false _).symm
  | true =>
    cases s.csN with
    | true => rfl
    | false => exact (uFault_undefRead s).trans (Bool.or_false _).symm

/-- An instruction that may be refused marks nothing when it marks nothing as it runs. -/
theorem marks_guarded {i : Instr} (ok : Bool) (u v : State) (h : exec i s = .next (if ok then u else v))
    (run : u.undefRead = s.undefRead) (refuse : v.undefRead = s.undefRead) : Marks s i true := by
  refine marks_none s _ h ?_
  cases ok with
  | true => exact run
  | false => exact refuse

theorem marks_dispatch {i : Instr} (op : BitVec 3) (arg : Word) (h : exec i s = .next (dispatch op arg s)) : Marks s i true :=
  marks_none s _ h (dispatch_undefRead op arg s)

theorem marks_registerAccess (reg val : Byte) (dst : Dst) :
    Marks s (.wr reg val) true ∧ Marks s (.rd reg dst) true ∧ Marks s (.burst reg) true :=
  ⟨marks_guarded s _ _ _ rfl (transfer_undefRead s _ _ fun _ _ => rfl) (uFault_undefRead s),
    marks_guarded s _ _ _ rfl (transfer_undefRead s _ _ fun _ _ => rfl) (uFault_undefRead s),
    marks_guarded s _ _ _ rfl (transfer_undefRead s _ _ fun _ _ => rfl) (uFault_undefRead s)⟩

theorem marks_frames (reg : BitVec 7) (val : Byte) :
    Marks s (.wFrame reg val) true ∧ Marks s (.rFrame reg) true ∧ Marks s .bFrame true :=
  ⟨marks_none s _ rfl (transfer_undefRead s _ _ fun _ _ => rfl), marks_none s _ rfl (transfer_undefRead s _ _ fun _ _ => rfl),
    marks_none s _ rfl (transfer_undefRead s _ _ fun _ _ => rfl)⟩

end Marks

theorem and_reversed (a b c d : Bool) : (d && c && b && a) = (a && b && c && d) := by ac_rfl

/-- Settles O34. -/
theorem readBeforeWriteMarksTheRun : Obligations.ReadBeforeWriteMarksTheRun := by
  intro s target
  refine ⟨marks_branch s rfl, marks_branch s rfl, marks_branch s rfl, marks_branch s rfl, marks_branch s rfl,
    marks_branch s rfl, marks_branch s rfl, ⟨_, rfl, rfl⟩, ⟨_, rfl, rfl⟩, ⟨_, rfl, rfl⟩, marks_omrot s, marks_wait s,
    fun reg src => ?_, fun result next => ?_, fun status result next notOk => ?_, marks_registerAccess s,
    marks_guarded s _ _ _ rfl rfl (uFault_undefRead s), marks_guarded s _ _ _ rfl (uFault_undefRead s) rfl,
    marks_none s _ rfl rfl, marks_none s _ rfl rfl, fun arg => ?_, marks_frames s⟩
  · cases src <;> exact marks_wrr s reg _
  · have reads : Marks s (.endOp .ok result next) (!s.csN || s.regs.resultWritten result) := marks_end s .ok result next
    cases result with
    | none | burst => exact reads
    | id => rwa [Regs.resultWritten, Bool.and_comm] at reads
    | polled => rwa [Regs.resultWritten, and_reversed] at reads
  · have reads := marks_end s status result next
    rwa [endWritten, if_neg notOk, Bool.or_true] at reads
  · exact ⟨marks_dispatch s 0 arg rfl, marks_dispatch s 1 arg rfl, marks_dispatch s 2 arg rfl, marks_dispatch s 3 arg rfl,
      marks_dispatch s 4 arg rfl, marks_dispatch s 5 arg rfl⟩

end Sys2Proof.Proofs
end

section
/-! PROOFS. Which instructions a micro-op word decodes to (R69, R77). -/

namespace Sys2Proof.Proofs

open Sys2Proof.Machine

/-- A micro-op whose operands are legal. -/
def LegalUop (i : Instr) : Prop := i.wellFormed = true ∧ isUop i = true

theorem regOk_of_not_msb {reg : Byte} (h : ¬reg.msb = true) : regOk reg = true := by
  rw [regOk, Bool.eq_false_of_not_eq_true h]
  rfl

theorem decodeBare_legal {w : UWord} {i j : Instr} (legal : LegalUop i) (h : decodeBare w i = .ok j) : LegalUop j := by
  unfold decodeBare at h
  split at h <;> cases h
  exact legal

theorem decodeBranch_legal {cond : BitVec 4} {target : UAddr} {i : Instr} (h : decodeBranch cond target = .ok i) :
    LegalUop i := by
  unfold decodeBranch at h
  split at h <;> cases h <;> exact ⟨rfl, rfl⟩

theorem decodeWr_legal {w : UWord} {i : Instr} (h : decodeWr w = .ok i) : LegalUop i := by
  unfold decodeWr at h
  split_ifs at h with _ msb
  cases h
  exact ⟨regOk_of_not_msb msb, rfl⟩

theorem decodeRd_legal {w : UWord} {i : Instr} (h : decodeRd w = .ok i) : LegalUop i := by
  unfold decodeRd at h
  split_ifs at h with _ msb
  split at h <;> cases h
  exact ⟨regOk_of_not_msb msb, rfl⟩

theorem decodeBurst_legal {w : UWord} {i : Instr} (h : decodeBurst w = .ok i) : LegalUop i := by
  unfold decodeBurst at h
  split_ifs at h with _ _ msb
  cases h
  exact ⟨regOk_of_not_msb msb, rfl⟩

theorem decodeWrr_legal {w : UWord} {i : Instr} (h : decodeWrr w = .ok i) : LegalUop i := by
  unfold decodeWrr at h
  split_ifs at h with _ msb
  split at h <;> cases h
  exact ⟨regOk_of_not_msb msb, rfl⟩

theorem decodeEnd_legal {w : UWord} {i : Instr} (h : decodeEnd w = .ok i) : LegalUop i := by
  unfold decodeEnd at h
  split at h <;> cases h
  next status _ _ field _ _ => exact ⟨(Status.code_ofField _ status field).1, rfl⟩

/-- A word that decodes stands for a legal micro-op. -/
theorem decodeUop_legal {w : UWord} {i : Instr} (h : decodeUop w = .ok i) : LegalUop i := by
  unfold decodeUop at h
  split at h
  · exact decodeWr_legal h
  · split at h <;> cases h
    exact ⟨rfl, rfl⟩
  · exact decodeRd_legal h
  · exact decodeBurst_legal h
  · exact decodeBare_legal ⟨rfl, rfl⟩ h
  · exact decodeBare_legal ⟨rfl, rfl⟩ h
  · exact decodeBranch_legal h
  · exact decodeBare_legal ⟨rfl, rfl⟩ h
  · exact decodeBare_legal ⟨rfl, rfl⟩ h
  · exact decodeWrr_legal h
  · exact decodeBare_legal ⟨rfl, rfl⟩ h
  · exact decodeBare_legal ⟨rfl, rfl⟩ h
  · exact decodeBare_legal ⟨rfl, rfl⟩ h
  · exact decodeEnd_legal h
  · cases h

/-! ## The transfer a reset may cut -/

open Sys2Proof.Safety

theorem pendingInstr_word (s : State) (w : UWord) (i : Instr) (noFrame : s.frame = none) (busy : s.busy = true)
    (read : s.rom.read s.upc.toNat = some w) (decoded : decodeUop w = .ok i) : pendingInstr s = some i := by
  simp [pendingInstr, pendingWork, noFrame, busy, read, decode, decoded]

theorem pendingTransfer_word (s : State) (w : UWord) (i : Instr) (noFrame : s.frame = none) (busy : s.busy = true)
    (high : s.csN = true) (read : s.rom.read s.upc.toNat = some w) (decoded : decodeUop w = .ok i) :
    pendingTransfer s = busBytes i s := by
  simp [pendingTransfer, pendingInstr_word s w i noFrame busy read decoded, high]

theorem pendingWritten_word (s : State) (w : UWord) (i : Instr) (noFrame : s.frame = none) (busy : s.busy = true)
    (read : s.rom.read s.upc.toNat = some w) (decoded : decodeUop w = .ok i) : pendingWritten s = busWritten i s := by
  simp [pendingWritten, pendingInstr_word s w i noFrame busy read decoded]

theorem pendingTransfer_low (s : State) (low : s.csN = false) : pendingTransfer s = none := by
  by_contra some
  obtain ⟨tx, bytes⟩ := Option.ne_none_iff_exists'.mp some
  rw [pendingTransfer_high s tx bytes] at low
  cases low

/-- A command makes no transfer. -/
theorem busBytes_of_decodeCmd {w : BitVec 35} {i : Instr} (h : decodeCmd w = .ok i) (s : State) : busBytes i s = none := by
  unfold decodeCmd at h
  split at h <;> cases h <;> rfl

theorem pendingTransfer_idle (s : State) (noFrame : s.frame = none) (idle : s.busy = false) : pendingTransfer s = none := by
  unfold pendingTransfer
  split
  next i pending =>
    unfold pendingInstr at pending
    split at pending
    next c work =>
      obtain ⟨bytes, slot, -⟩ | ⟨-, busy, -⟩ | ⟨-, -, op, arg, rest, -, rfl⟩ := pendingWork_code s c work
      · rw [noFrame] at slot; cases slot
      · rw [idle] at busy; cases busy
      · split at pending <;> cases pending
        next decoded => rw [busBytes_of_decodeCmd decoded, ite_self]
    next => cases pending
  next => rfl

end Sys2Proof.Proofs
end

section
/-! PROOFS. Reset: its values (R29) and how it aborts whatever is under way (R190 to R192). -/

namespace Sys2Proof.Proofs

open Sys2Proof.Machine Sys2Proof.Safety

theorem reset_pb_unwritten : Regs.reset.pb.any (·.written) = false := by simp [Regs.reset, Cell.reset]

/-- Settles O35. -/
theorem resetValues : Obligations.ResetValues :=
  fun _ => ⟨rfl, rfl, rfl, rfl, rfl, rfl, rfl, rfl, rfl, reset_pb_unwritten, rfl⟩

/-- The host's input for a reset, cut or between micro-ops. -/
theorem step_resetInput (s : State) (cut : Option Nat) (rest : List HostInput)
    (host : s.env.host = (match cut with | none => .reset | some n => .resetDuring n) :: rest) :
    step s = .next (resetStep cut s) ∧ (beginStep s).env.host = rest := by
  cases cut <;> simp [step, nextWork, beginStep_host, host, hostAfter]

/-- Either kind of reset is a hardware reset of a state with the same ROM and host. -/
theorem resetStep_eq_hardReset (cut : Option Nat) (s : State) :
    ∃ u, resetStep cut s = hardReset u ∧ u.rom = s.rom ∧ u.env.host = (beginStep s).env.host := by
  unfold resetStep
  split
  next n tx _ =>
    have moved := cutTransfer_only_bus ((beginStep s).noteRead (pendingWritten s)) tx n
    exact ⟨_, rfl, by rw [moved]; rfl, by rw [moved]; rfl⟩
  next => exact ⟨_, rfl, rfl, rfl⟩

section Cut
variable (s : State) (tx : List Byte) (n : Nat)

/-- The bytes received before the cut are the chip's answers. -/
theorem exchangeAll_answered : Answered s tx.length (exchangeAll s.selectChip tx).1 :=
  ⟨exchangeAll_length _ _, fun given rest length chip =>
    (exchangeAll_scripted s.selectChip tx given rest length chip).1⟩

/-- A transfer cut after `n` bytes is a window of those bytes, whose `CSH` is the reset's. -/
theorem hardReset_cutTransfer_adds :
    ∃ rx, Answered s (min n tx.length) rx ∧ Adds s (hardReset (cutTransfer s tx n)) (window (tx.take n) rx) := by
  obtain ⟨rx, new, rfl, grown, evs⟩ := cutTransfer_trace s tx n
  have reset := hardReset_adds (cutTransfer s tx n)
  rw [cutTransfer_csN] at reset
  refine ⟨_, ?_, adds_trans ⟨new, grown, evs⟩ reset⟩
  rw [← List.length_take]
  exact exchangeAll_answered s (tx.take n)

/-- Its `CSH` is stamped with the time of the reset. -/
theorem hardReset_cutTransfer_last :
    (hardReset (cutTransfer s tx n)).trace.getLast? =
      some { ev := .csh, time := (hardReset (cutTransfer s tx n)).env.now } := by
  simp [hardReset_eq, cutTransfer_csN]

end Cut

theorem beginStep_env_cons (s : State) (d : Word) (more : List Word) (ticks : s.env.ticks = d :: more) :
    (beginStep s).env.ticks = more ∧ (beginStep s).env.now = s.env.now + d := by
  rw [beginStep_eq, Env.tick_cons s.env d more ticks]
  exact ⟨rfl, rfl⟩

theorem beginStep_chip (s : State) : (beginStep s).env.chip = s.env.chip := Env.tick_chip s.env

/-- A reset between two micro-ops adds `CSH` if chip-select was low. -/
theorem resetStep_between_adds (s : State) (cut : Option Nat) (between : cut = none ∨ pendingTransfer s = none) :
    (resetStep cut s).undefRead = s.undefRead ∧ Adds s (resetStep cut s) (if s.csN then [] else [.csh]) := by
  rw [resetStep_between cut s between]
  exact ⟨by rw [hardReset_eq]; rfl, hardReset_adds (beginStep s)⟩

section Inside
variable (s : State) (tx : List Byte) (n : Nat) (bytes : pendingTransfer s = some tx)
include bytes

/-- A reset inside a transfer puts the bytes sent so far in one window, and marks the run by what the transfer read. -/
theorem resetStep_inside_adds :
    (resetStep (some n) s).undefRead = (s.undefRead || !pendingWritten s) ∧
    (∃ rx, Answered s (min n tx.length) rx ∧ Adds s (resetStep (some n) s) (window (tx.take n) rx)) ∧
    (resetStep (some n) s).trace.getLast? = some { ev := .csh, time := (resetStep (some n) s).env.now } := by
  rw [resetStep_inside n s tx bytes]
  refine ⟨by rw [hardReset_eq, cutTransfer_only_bus]; rfl, ?_, hardReset_cutTransfer_last _ tx n⟩
  obtain ⟨rx, ⟨length, answers⟩, adds⟩ :=
    hardReset_cutTransfer_adds ((beginStep s).noteRead (pendingWritten s)) tx n
  exact ⟨rx, ⟨length, fun given rest hl chip => answers given rest hl ((beginStep_chip s).trans chip)⟩, adds⟩

/-- It draws the clock once for the step, once before each byte sent and once for its `CSH`. -/
theorem resetStep_inside_now (first last : Word) (ds later : List Word)
    (ticks : s.env.ticks = first :: (ds ++ last :: later)) (length : ds.length = min n tx.length) :
    (resetStep (some n) s).env.now = ds.foldl (· + ·) (s.env.now + first) + last := by
  obtain ⟨left, now⟩ := beginStep_env_cons s first _ ticks
  rw [resetStep_inside n s tx bytes, hardReset_eq, ← now]
  exact cutTransfer_now ((beginStep s).noteRead _) tx n ds last later (by rw [length, List.length_take]) left

end Inside

/-- Settles O36. -/
theorem resetAborts : Obligations.ResetAborts := by
  refine ⟨fun s cut rest host => ?_, fun s w i noFrame busy high read decoded => ?_, fun s idle => ?_⟩
  · obtain ⟨reset, left⟩ := step_resetInput s cut rest host
    obtain ⟨u, isReset, rom, kept⟩ := resetStep_eq_hardReset cut s
    have fields := isReset.trans (hardReset_eq u)
    refine ⟨resetStep cut s, reset, congrArg State.life fields, congrArg State.upc fields, congrArg State.busy fields,
      congrArg State.csN fields, congrArg State.rspStatus fields, congrArg State.rspData fields,
      congrArg State.rspValid fields, congrArg State.regs fields, congrArg State.held fields, congrArg State.bus fields,
      congrArg State.frame fields, (congrArg State.rom fields).trans rom,
      (congrArg (fun t : State => t.env.host) fields).trans (kept.trans left), resetStep_between_adds s cut, ?_⟩
    rintro n tx rfl bytes
    obtain ⟨mark, sent, closed⟩ := resetStep_inside_adds s tx n bytes
    exact ⟨mark, sent, closed, resetStep_inside_now s tx n bytes⟩
  · rw [pendingTransfer_word s w i noFrame busy high read decoded, pendingWritten_word s w i noFrame busy read decoded]
    obtain ⟨wellFormed, uop⟩ := decodeUop_legal decoded
    cases i with
    | wr | rd | burst => exact ⟨if_pos wellFormed, rfl⟩
    | wrr reg src => cases src <;> exact ⟨if_pos wellFormed, rfl⟩
    | wFrame | rFrame | bFrame | init | getId | setRotation | setOrientation | getMotion | getMotionSlow => cases uop
    | _ => exact ⟨rfl, rfl⟩
  · rcases idle with low | ⟨noFrame, idle⟩
    · exact pendingTransfer_low s low
    · exact pendingTransfer_idle s noFrame idle

end Sys2Proof.Proofs
end

section
/-! PROOFS. GET_ID on the reference ROM (R135). -/

namespace Sys2Proof.Proofs

open Sys2Proof.Machine Sys2Proof.Safety

theorem run_succ {M : Host.Core} (k : Nat) {s u : M.State} (h : M.step s = .next u) : M.run (k + 1) s = M.run k u := by
  rw [Host.Core.run, h]

/-- The idle block that accepts a command is about to run the command's first micro-op. -/
theorem presents_runs {tab : CalTab} {op : BitVec 3} {arg : Word} {s : State} (presents : Presents tab op arg s)
    (allowed : op = 0 ∧ s.life = .uninit ∨ op ≠ 0 ∧ s.life = .ready) (known : ¬(op = 6 ∨ op = 7)) :
    ∃ u, step s = .next u ∧ RunsAt tab (entry op).toNat u ∧ u.life = s.life ∧ u.regs = s.regs.setArg arg ∧
      Adds s u [.cmd op arg] := by
  obtain ⟨rom, noFrame, notBusy, ⟨high, free⟩, host⟩ := presents
  rw [step_command s op arg [] noFrame notBusy host, dispatch_runs op arg (beginStep s) notBusy known allowed]
  exact ⟨_, rfl, ⟨rom, rfl, rfl, rfl, high, free, beginStep_host_command s op arg [] noFrame notBusy host⟩, rfl, rfl,
    ⟨_, rfl, rfl⟩⟩

/-- A step at an index of the reference program is the meaning of the micro-op that stands there. -/
theorem runsAt_step {tab : CalTab} {k : Nat} {s : State} (runs : RunsAt tab k s) (w : UWord) (i : Instr)
    (read : (Rom.reference tab).read k = some w) (decoded : decodeUop w = .ok i) : step s = exec i (beginStep s) :=
  step_running s w i (by simp [resetNext, runs.host]) runs.noFrame runs.busy (by rw [runs.rom, runs.upc, read]) decoded

theorem reference_read_getId (tab : CalTab) : (Rom.reference tab).read 0 = some 0xD00001 := by
  rw [Rom.read_reference, refProgram_fixed tab 0 (by decide)]
  rfl

/-- Settles O37: dispatch, then `END OK, ID, KEEP`. -/
theorem getIdAnswersTheHeldPair : Obligations.GetIdAnswersTheHeldPair := by
  intro tab arg s presents ready
  obtain ⟨u, accepted, runs, life, regs, adds⟩ := presents_runs presents (.inr ⟨by decide, ready⟩) (by decide)
  have ends : step u = _ := (runsAt_step runs 0xD00001 (.endOp .ok .id .keep) (reference_read_getId tab) rfl).trans
    (execEnd_responds .ok .id .keep (beginStep u) rfl runs.chipSelect)
  refine ⟨_, (run_succ (M := Sys2Proof.core) 1 accepted).trans (run_succ (M := Sys2Proof.core) 0 ends), adds_trans adds ⟨_, rfl, ?_⟩, life.trans ready,
    rfl, runs.chipSelect, regs, fun product revision => ?_⟩
  · show [Event.rsp 0 (u.regs.resultData .id)] = _
    rw [regs]
    rfl
  · show u.regs.resultData .id = _
    rw [regs]
    show 0x0000#16 ++ s.regs.revr.val ++ s.regs.pidr.val = _
    rw [product, revision]
    rfl

end Sys2Proof.Proofs
end

section
/-! PROOFS. The reference program, checked index by index (R30, R81, R112): which registers each micro-op may read where it
stands, and where it may go. -/

namespace Sys2Proof.Proofs

open Sys2Proof.Machine Sys2Proof.Safety

/-! ## The registers the invariant speaks of -/

/-- A register whose written-mark `AtIndex` asks for at some index. -/
inductive WorkReg where
  | om
  | tstart
  | fb
  | pb (j : Fin 5)
  | rb
  | c1
  | c2
  | pidr
  | revr
  deriving DecidableEq

def WorkReg.written (m : WorkReg) (r : Regs) : Bool :=
  match m with
  | .om => r.om.written
  | .tstart => r.tstart.written
  | .fb => r.fb.written
  | .pb j => (r.pb[j.val]).written
  | .rb => r.rb.written
  | .c1 => r.c1.written
  | .c2 => r.c2.written
  | .pidr => r.pidr.written
  | .revr => r.revr.written

/-- `AtIndex` asks for this register's mark at index `k`. -/
def Asks (tab : CalTab) (k : Nat) (m : WorkReg) : Prop :=
  match m with
  | .om => k = 0x02 ∨ k = 0x06
  | .tstart => 0x0A ≤ k ∧ k ≤ 0x0E ∨ 0x12 ≤ k ∧ k ≤ 0x1A
  | .fb => k = 0x0C ∨ k = 0x0F
  | .pb j => 0x14 + j.val ≤ k ∧ k ≤ 0x1B
  | .rb => k = CalTab.p1 tab + 1 ∨ k = CalTab.p2 tab + 1
  | .c1 => CalTab.p2 tab + 3 ≤ k ∧ k < CalTab.p3 tab
  | .c2 => CalTab.p2 tab + 4 ≤ k ∧ k < CalTab.p3 tab
  | .pidr => CalTab.p4 tab + 1 ≤ k
  | .revr => CalTab.p4 tab + 2 ≤ k

/-- What is asked for holds. -/
theorem atIndex_asked {tab : CalTab} {k : Nat} {s : State} (at_k : AtIndex tab k s) (m : WorkReg) (asks : Asks tab k m) :
    m.written s.regs = true := by
  cases m with
  | om => exact at_k.mask asks
  | tstart => exact at_k.start asks
  | fb => exact at_k.burst asks
  | pb j => exact at_k.poll j asks
  | rb => exact at_k.readback asks
  | c1 => exact at_k.c1 asks
  | c2 => exact at_k.c2 asks
  | pidr => exact at_k.product asks
  | revr => exact at_k.revision asks

/-! ## Where a micro-op may go -/

/-- A micro-op at index `k` that writes the registers `wrote` may go to `k'`: it stays on its side of INIT's entry point, and
what is asked for at `k'` was asked for at `k` or has just been written. -/
structure Leads (tab : CalTab) (k k' : Nat) (wrote : List WorkReg) : Prop where
  inside : k' < CalTab.p4 tab + 5
  sameHalf : k < 0x1D ↔ k' < 0x1D
  carries : ∀ m, Asks tab k' m → Asks tab k m ∨ m ∈ wrote

/-- The same for a micro-op that leaves chip-select, to an index at which nothing is asked about a value. -/
structure LeadsOn (tab : CalTab) (k k' : Nat) (wrote : List WorkReg) : Prop extends Leads tab k k' wrote where
  level : k = 0x1E ∨ k = 0x1F ↔ k' = 0x1E ∨ k' = 0x1F
  noRotation : k' ≠ 0x05
  noIdentity : k' ≠ CalTab.p4 tab + 3

/-- Chip-select is high at index `k`. -/
abbrev High (k : Nat) : Prop := k ≠ 0x1E ∧ k ≠ 0x1F

/-- The registers `RD` writes besides `RB`. -/
def dstRegs (dst : Dst) : List WorkReg :=
  match dst with
  | .discard => []
  | .c1 => [.c1]
  | .c2 => [.c2]
  | .pidr => [.pidr]
  | .revr => [.revr]
  | .pb k => [.pb k]

def srcReg (src : Src) : WorkReg :=
  match src with
  | .c1 => .c1
  | .c2 => .c2
  | .om => .om

/-- What `END` reads is asked for at `k`; the identity pair is known wherever `STATE` is `READY`. -/
def ResultAsked (tab : CalTab) (k : Nat) (result : ResultSel) : Prop :=
  match result with
  | .none => True
  | .id => k < 0x1D
  | .burst => Asks tab k .fb
  | .polled => Asks tab k (.pb 1) ∧ Asks tab k (.pb 2) ∧ Asks tab k (.pb 3) ∧ Asks tab k (.pb 4)

/-- The instruction may stand at index `k`: its operands are legal, what it reads has been written, and it leads on. -/
def Checked (tab : CalTab) (k : Nat) (i : Instr) : Prop :=
  match i with
  | .wr reg _ => regOk reg = true ∧ High k ∧ LeadsOn tab k (k + 1) []
  | .wait _ => LeadsOn tab k (k + 1) []
  | .rd reg dst => regOk reg = true ∧ High k ∧ LeadsOn tab k (k + 1) (.rb :: dstRegs dst) ∧
      (dst = .pidr ∨ dst = .revr → 0x1D ≤ k)
  | .burst reg => regOk reg = true ∧ High k ∧ LeadsOn tab k (k + 1) [.fb]
  | .cslo => k = 0x1D
  | .cshi => k = 0x1F
  | .jmp target => LeadsOn tab k target.toNat []
  | .bb7 target | .bnz target => Asks tab k .rb ∧ LeadsOn tab k target.toNat [] ∧ LeadsOn tab k (k + 1) []
  | .bqok target => Asks tab k .fb ∧ LeadsOn tab k target.toNat [] ∧ LeadsOn tab k (k + 1) []
  | .bdrdy target => Asks tab k (.pb 0) ∧ LeadsOn tab k target.toNat [] ∧ LeadsOn tab k (k + 1) []
  | .btmo target => Asks tab k .tstart ∧ LeadsOn tab k target.toNat [] ∧ LeadsOn tab k (k + 1) []
  | .bidbad target => k = CalTab.p4 tab + 2 ∧ LeadsOn tab k target.toNat []
  | .bargbad target => k = 0x04 ∧ LeadsOn tab k target.toNat []
  | .xf1 => Asks tab k .c1 ∧ LeadsOn tab k (k + 1) []
  | .xf2 => Asks tab k .c2 ∧ LeadsOn tab k (k + 1) []
  | .wrr reg src => regOk reg = true ∧ High k ∧ Asks tab k (srcReg src) ∧ LeadsOn tab k (k + 1) []
  | .tstamp => LeadsOn tab k (k + 1) [.tstart]
  | .omflg => LeadsOn tab k (k + 1) [.om]
  | .omrot => k = 0x05 ∧ LeadsOn tab k (k + 1) [.om]
  | .endOp status result next => status.encodable = true ∧ High k ∧ ResultAsked tab k result ∧
      (next = .keep ∨ 0x1D ≤ k) ∧ (next = .ready → k = CalTab.p4 tab + 3)
  | .init _ | .getId _ | .setRotation _ | .setOrientation _ | .getMotion _ | .getMotionSlow _ => False
  | .wFrame _ _ | .rFrame _ | .bFrame => False

theorem positions (tab : CalTab) :
    0x27 ≤ CalTab.p1 tab ∧ CalTab.p1 tab + 5 ≤ CalTab.p2 tab ∧ CalTab.p2 tab + 8 ≤ CalTab.p3 tab ∧
      CalTab.p3 tab + 2 ≤ CalTab.p4 tab := by
  unfold CalTab.p4 CalTab.p3 CalTab.p2 CalTab.p1
  omega

/-! ## Indices 0x0000 to 0x0026 -/

/-- `LeadsOn` below 0x0027, where nothing depends on the calibration table. -/
abbrev LeadsEarly (k k' : Nat) (wrote : List WorkReg) : Prop :=
  k' ≤ 0x27 ∧ (k < 0x1D ↔ k' < 0x1D) ∧ (k = 0x1E ∨ k = 0x1F ↔ k' = 0x1E ∨ k' = 0x1F) ∧ k' ≠ 0x05 ∧
  (k' = 0x02 ∨ k' = 0x06 → .om ∈ wrote) ∧
  (0x0A ≤ k' ∧ k' ≤ 0x0E ∨ 0x12 ≤ k' ∧ k' ≤ 0x1A →
    (0x0A ≤ k ∧ k ≤ 0x0E ∨ 0x12 ≤ k ∧ k ≤ 0x1A) ∨ .tstart ∈ wrote) ∧
  (k' = 0x0C ∨ k' = 0x0F → (k = 0x0C ∨ k = 0x0F) ∨ .fb ∈ wrote) ∧
  ∀ j : Fin 5, 0x14 + j.val ≤ k' ∧ k' ≤ 0x1B → (0x14 + j.val ≤ k ∧ k ≤ 0x1B) ∨ .pb j ∈ wrote

theorem LeadsEarly.on {k k' : Nat} {wrote : List WorkReg} (early : LeadsEarly k k' wrote) (tab : CalTab) :
    LeadsOn tab k k' wrote := by
  obtain ⟨h1, h2, h3, h4⟩ := positions tab
  obtain ⟨inside, half, level, noRotation, om, tstart, fb, pb⟩ := early
  refine ⟨⟨by omega, half, fun m asks => ?_⟩, level, noRotation, by omega⟩
  cases m with
  | om => exact .inr (om asks)
  | tstart => exact tstart asks
  | fb => exact fb asks
  | pb j => exact pb j asks
  | rb | c1 | c2 | pidr | revr => simp only [Asks] at asks; omega

theorem fixed_checked (tab : CalTab) (k : Nat) (below : k < 0x27) :
    ∃ i, progFixed[k]? = some i ∧ Checked tab k i := by
  have on {k k' : Nat} {wrote : List WorkReg} (early : LeadsEarly k k' wrote) := early.on tab
  have polled : ResultAsked tab 0x1B .polled := by simp [ResultAsked, Asks]
  interval_cases k
  · exact ⟨.endOp .ok .id .keep, rfl, rfl, by decide, (by decide : 0x00 < 0x1D), .inl rfl, nofun⟩
  · exact ⟨.omflg, rfl, on (by decide)⟩
  · exact ⟨.wrr 0x5B .om, rfl, rfl, by decide, .inl rfl, on (by decide)⟩
  · exact ⟨.endOp .ok .none .keep, rfl, rfl, by decide, trivial, .inl rfl, nofun⟩
  · exact ⟨.bargbad 0x0008, rfl, rfl, on (by decide)⟩
  · exact ⟨.omrot, rfl, rfl, on (by decide)⟩
  · exact ⟨.wrr 0x5B .om, rfl, rfl, by decide, .inr rfl, on (by decide)⟩
  · exact ⟨.endOp .ok .none .keep, rfl, rfl, by decide, trivial, .inl rfl, nofun⟩
  · exact ⟨.endOp .invalidArg .none .keep, rfl, rfl, by decide, trivial, .inl rfl, nofun⟩
  · exact ⟨.tstamp, rfl, on (by decide)⟩
  · exact ⟨.btmo 0x0010, rfl, .inl (by decide), on (by decide), on (by decide)⟩
  · exact ⟨.burst 0x16, rfl, rfl, by decide, on (by decide)⟩
  · exact ⟨.bqok 0x000F, rfl, .inl rfl, on (by decide), on (by decide)⟩
  · exact ⟨.wait 10, rfl, on (by decide)⟩
  · exact ⟨.jmp 0x000A, rfl, on (by decide)⟩
  · exact ⟨.endOp .ok .burst .keep, rfl, rfl, by decide, .inr rfl, .inl rfl, nofun⟩
  · exact ⟨.endOp .timeout .none .keep, rfl, rfl, by decide, trivial, .inl rfl, nofun⟩
  · exact ⟨.tstamp, rfl, on (by decide)⟩
  · exact ⟨.btmo 0x001C, rfl, .inr (by decide), on (by decide), on (by decide)⟩
  · exact ⟨.rd 0x02 (.pb 0), rfl, rfl, by decide, on (by decide), by decide⟩
  · exact ⟨.rd 0x03 (.pb 1), rfl, rfl, by decide, on (by decide), by decide⟩
  · exact ⟨.rd 0x04 (.pb 2), rfl, rfl, by decide, on (by decide), by decide⟩
  · exact ⟨.rd 0x05 (.pb 3), rfl, rfl, by decide, on (by decide), by decide⟩
  · exact ⟨.rd 0x06 (.pb 4), rfl, rfl, by decide, on (by decide), by decide⟩
  · exact ⟨.bdrdy 0x001B, rfl, ⟨by decide, by decide⟩, on (by decide), on (by decide)⟩
  · exact ⟨.wait 1, rfl, on (by decide)⟩
  · exact ⟨.jmp 0x0012, rfl, on (by decide)⟩
  · exact ⟨.endOp .ok .polled .keep, rfl, rfl, by decide, polled, .inl rfl, nofun⟩
  · exact ⟨.endOp .timeout .none .keep, rfl, rfl, by decide, trivial, .inl rfl, nofun⟩
  · exact ⟨.cslo, rfl, rfl⟩
  · exact ⟨.wait 50, rfl, on (by decide)⟩
  · exact ⟨.cshi, rfl, rfl⟩
  · exact ⟨.wr 0x3A 0x5A, rfl, rfl, by decide, on (by decide)⟩
  · exact ⟨.wait 20, rfl, on (by decide)⟩
  · exact ⟨.rd 0x02 .discard, rfl, rfl, by decide, on (by decide), by decide⟩
  · exact ⟨.rd 0x03 .discard, rfl, rfl, by decide, on (by decide), by decide⟩
  · exact ⟨.rd 0x04 .discard, rfl, rfl, by decide, on (by decide), by decide⟩
  · exact ⟨.rd 0x05 .discard, rfl, rfl, by decide, on (by decide), by decide⟩
  · exact ⟨.rd 0x06 .discard, rfl, rfl, by decide, on (by decide), by decide⟩

/-! ## From 0x0027 on -/

/-- From the power-up write on, only the register read last, the calibration pair and the identity pair are asked for. -/
theorem leadsOn_late {tab : CalTab} {k k' : Nat} {wrote : List WorkReg} (late : 0x20 ≤ k := by omega)
    (late' : 0x20 ≤ k' := by omega) (inside : k' < CalTab.p4 tab + 5 := by omega)
    (noIdentity : k' ≠ CalTab.p4 tab + 3 := by omega)
    (rb : k' = CalTab.p1 tab + 1 ∨ k' = CalTab.p2 tab + 1 → .rb ∈ wrote := by omega)
    (c1 : CalTab.p2 tab + 3 ≤ k' ∧ k' < CalTab.p3 tab →
      CalTab.p2 tab + 3 ≤ k ∧ k < CalTab.p3 tab ∨ .c1 ∈ wrote := by omega)
    (c2 : CalTab.p2 tab + 4 ≤ k' ∧ k' < CalTab.p3 tab →
      CalTab.p2 tab + 4 ≤ k ∧ k < CalTab.p3 tab ∨ .c2 ∈ wrote := by omega)
    (pidr : CalTab.p4 tab + 1 ≤ k' → CalTab.p4 tab + 1 ≤ k ∨ .pidr ∈ wrote := by omega)
    (revr : CalTab.p4 tab + 2 ≤ k' → CalTab.p4 tab + 2 ≤ k ∨ .revr ∈ wrote := by omega) : LeadsOn tab k k' wrote := by
  refine ⟨⟨inside, by omega, fun m asks => ?_⟩, by omega, by omega, noIdentity⟩
  cases m with
  | om | tstart | fb | pb => simp only [Asks] at asks; omega
  | rb => exact .inr (rb asks)
  | c1 => exact c1 asks
  | c2 => exact c2 asks
  | pidr => exact pidr asks
  | revr => exact revr asks

/-- A micro-op that writes no register leads to the next index, except where an `RD` has to stand. -/
theorem leadsOn_next {tab : CalTab} {k : Nat} (late : 0x27 ≤ k := by omega) (inside : k < CalTab.p4 tab := by omega)
    (free : k ≠ CalTab.p1 tab ∧ k ≠ CalTab.p2 tab ∧ k ≠ CalTab.p2 tab + 2 ∧ k ≠ CalTab.p2 tab + 3 := by omega) :
    LeadsOn tab k (k + 1) [] := by
  obtain ⟨h1, h2, h3, h4⟩ := positions tab
  exact leadsOn_late

theorem high_late {k : Nat} (late : 0x27 ≤ k := by omega) : High k := by omega

section Valid
variable {tab : CalTab} (valid : CalTab.valid tab = true)
include valid

theorem valid_regOk (e : CalEntry) (mem : e ∈ tab.a ++ tab.b ++ tab.c ++ tab.d1 ++ tab.d2 ++ tab.d3) :
    regOk e.reg = true := by
  simp only [CalTab.valid, Bool.and_eq_true, List.all_eq_true] at valid
  exact valid.1.1 e mem

theorem valid_fits : CalTab.p4 tab + 5 ≤ 65536 := by
  simp only [CalTab.valid, Bool.and_eq_true, decide_eq_true_iff] at valid
  exact valid.2

theorem label_toNat {n : Nat} (inside : n < CalTab.p4 tab + 5) : (label n).toNat = n := by
  have fits := valid_fits valid
  rw [label, BitVec.toNat_ofNat]
  omega

/-- An entry of a calibration list stands as a legal `WR` that leads on. -/
theorem entry_checked {list : List CalEntry} {k j : Nat}
    (sub : list ⊆ tab.a ++ tab.b ++ tab.c ++ tab.d1 ++ tab.d2 ++ tab.d3) (inList : j < list.length)
    (at_k : (refProgram tab)[k]? = list[j]?.map fun e => .wr e.reg e.val) (late : 0x27 ≤ k) (leads : LeadsOn tab k (k + 1) []) :
    ∃ i, (refProgram tab)[k]? = some i ∧ Checked tab k i := by
  rw [List.getElem?_eq_getElem inList] at at_k
  exact ⟨_, at_k, valid_regOk valid _ (sub (List.getElem_mem inList)), high_late late, leads⟩

theorem branch1_checked (j : Nat) (h : j < 5) :
    ∃ i, (progBranch1 tab)[j]? = some i ∧ Checked tab (CalTab.p1 tab + j) i := by
  obtain ⟨h1, h2, h3, h4⟩ := positions tab
  have target (n : Nat) (inside : n < CalTab.p4 tab + 5) := label_toNat valid inside
  interval_cases j
  · exact ⟨.rd 0x67 .discard, rfl, rfl, high_late,
      leadsOn_late (rb := by simp), by simp⟩
  · refine ⟨.bb7 (label (CalTab.p1 tab + 4)), rfl, .inl rfl, ?_, leadsOn_next⟩
    rw [target _ (by omega)]
    exact leadsOn_late
  · exact ⟨.wr 0x48 0x02, rfl, rfl, high_late, leadsOn_next⟩
  · refine ⟨.jmp (label (CalTab.p1 tab + 5)), rfl, ?_⟩
    rw [Checked, target _ (by omega)]
    exact leadsOn_late
  · exact ⟨.wr 0x48 0x04, rfl, rfl, high_late, leadsOn_next⟩

theorem branch2_checked (j : Nat) (h : j < 6) :
    ∃ i, (progBranch2 tab)[j]? = some i ∧ Checked tab (CalTab.p2 tab + j) i := by
  obtain ⟨h1, h2, h3, h4⟩ := positions tab
  have inside : CalTab.p3 tab < CalTab.p4 tab + 5 := by omega
  interval_cases j
  · exact ⟨.rd 0x73 .discard, rfl, rfl, high_late,
      leadsOn_late (rb := by simp), by simp⟩
  · refine ⟨.bnz (label (CalTab.p3 tab)), rfl, .inr rfl, ?_, leadsOn_next⟩
    rw [label_toNat valid inside]
    exact leadsOn_late
  · exact ⟨.rd 0x70 .c1, rfl, rfl, high_late,
      leadsOn_late (rb := by simp) (c1 := by simp [dstRegs]),
      by simp⟩
  · exact ⟨.rd 0x71 .c2, rfl, rfl, high_late,
      leadsOn_late (rb := by simp) (c2 := by simp [dstRegs]),
      by simp⟩
  · exact ⟨.xf1, rfl, ⟨by omega, by omega⟩, leadsOn_next⟩
  · exact ⟨.xf2, rfl, ⟨by omega, by omega⟩, leadsOn_next⟩

theorem identity_checked (j : Nat) (h : j < 5) :
    ∃ i, (progIdentity tab)[j]? = some i ∧ Checked tab (CalTab.p4 tab + j) i := by
  obtain ⟨h1, h2, h3, h4⟩ := positions tab
  have inside : CalTab.p4 tab + 4 < CalTab.p4 tab + 5 := by omega
  interval_cases j
  · exact ⟨.rd 0x00 .pidr, rfl, rfl, high_late,
      leadsOn_late (rb := by simp) (pidr := by simp [dstRegs]),
      fun _ => by omega⟩
  · exact ⟨.rd 0x01 .revr, rfl, rfl, high_late,
      leadsOn_late (rb := by simp) (revr := by simp [dstRegs]),
      fun _ => by omega⟩
  · refine ⟨.bidbad (label (CalTab.p4 tab + 4)), rfl, rfl, ?_⟩
    rw [label_toNat valid inside]
    exact leadsOn_late
  · exact ⟨.endOp .ok .none .ready, rfl, rfl, high_late, trivial, .inr (by omega), fun _ => rfl⟩
  · exact ⟨.endOp .initError .none .failed, rfl, rfl, high_late, trivial, .inr (by omega), nofun⟩

/-- Every micro-op of the reference program may stand where it stands. -/
theorem refProgram_checked (k : Nat) (inside : k < CalTab.p4 tab + 5) :
    ∃ i, (refProgram tab)[k]? = some i ∧ Checked tab k i := by
  obtain ⟨h1, h2, h3, h4⟩ := positions tab
  have e1 : CalTab.p1 tab = 0x27 + tab.a.length := rfl
  have e2 : CalTab.p2 tab = CalTab.p1 tab + 5 + tab.b.length := rfl
  have e3 : CalTab.p3 tab = CalTab.p2 tab + 8 + tab.c.length := rfl
  have e4 : CalTab.p4 tab = CalTab.p3 tab + tab.d1.length + tab.d2.length + tab.d3.length + 2 := rfl
  rcases index_cases tab k inside with below | ⟨j, h, rfl⟩ | ⟨j, h, rfl⟩ | ⟨j, h, rfl⟩ | ⟨j, h, rfl⟩ | ⟨j, h, rfl⟩ | rfl |
    rfl | ⟨j, h, rfl⟩ | rfl | ⟨j, h, rfl⟩ | rfl | ⟨j, h, rfl⟩ | ⟨j, h, rfl⟩
  · rw [refProgram_fixed tab k below]
    exact fixed_checked tab k below
  · exact entry_checked valid (by grind) h (refProgram_calA tab j h) (by omega) leadsOn_next
  · rw [refProgram_branch1 tab j h]
    exact branch1_checked valid j h
  · exact entry_checked valid (by grind) h (refProgram_calB tab j h) (by omega) leadsOn_next
  · rw [refProgram_branch2 tab j (by omega)]
    exact branch2_checked valid j h
  · exact entry_checked valid (by grind) h (refProgram_calC tab j h) (by omega) leadsOn_next
  · exact ⟨_, refProgram_writeBack1 tab, rfl, high_late, ⟨by omega, by omega⟩,
      leadsOn_next⟩
  · exact ⟨_, refProgram_writeBack2 tab, rfl, high_late, ⟨by omega, by omega⟩,
      leadsOn_next⟩
  · exact entry_checked valid (by grind) h (refProgram_calD1 tab j h) (by omega) leadsOn_next
  · exact ⟨_, refProgram_waitCal1 tab, leadsOn_next⟩
  · exact entry_checked valid (by grind) h (refProgram_calD2 tab j h) (by omega) leadsOn_next
  · exact ⟨_, refProgram_waitCal2 tab, leadsOn_next⟩
  · exact entry_checked valid (by grind) h (refProgram_calD3 tab j h) (by omega) leadsOn_next
  · rw [refProgram_identity tab j h]
    exact identity_checked valid j h

end Valid

end Sys2Proof.Proofs
end

section
/-! PROOFS. The words of the reference ROM decode to the micro-ops of the reference program (R69, R77). -/

namespace Sys2Proof.Proofs

open Sys2Proof.Machine Sys2Proof.Safety

/-- The decoder reads a legal micro-op's word back. -/
theorem decodeUop_uword (i : Instr) (legal : LegalUop i) : decodeUop (uword i) = .ok i := by
  obtain ⟨wellFormed, uop⟩ := legal
  have clear (reg : Byte) (ok : regOk reg = true) : reg.msb = false := by simpa [regOk] using ok
  cases i with
  | wr reg | burst reg => simp [uword, encode, decodeUop, decodeWr, decodeBurst, clear reg wellFormed]
  | rd reg dst => simp [uword, encode, decodeUop, decodeRd, clear reg wellFormed, Dst.ofCode_code]
  | wrr reg src => simp [uword, encode, decodeUop, decodeWrr, clear reg wellFormed, Src.ofCode_code]
  | endOp status result next =>
    simp [uword, encode, decodeUop, decodeEnd, Status.ofField_code status wellFormed, ResultSel.ofField_code,
      NextSel.ofCode_code]
  | wait | jmp | bb7 | bnz | bqok | bdrdy | btmo | bidbad | bargbad => simp [uword, encode, decodeUop, decodeBranch]
  | cslo | cshi | xf1 | xf2 | tstamp | omflg | omrot => rfl
  | init | getId | setRotation | setOrientation | getMotion | getMotionSlow | wFrame | rFrame | bFrame => cases uop

/-- What may stand in the reference program is a legal micro-op. -/
theorem Checked.legal {tab : CalTab} {k : Nat} {i : Instr} (checked : Checked tab k i) : LegalUop i := by
  cases i with
  | wr | rd | burst | wrr | endOp => exact ⟨checked.1, rfl⟩
  | init | getId | setRotation | setOrientation | getMotion | getMotionSlow | wFrame | rFrame | bFrame => exact checked.elim
  | _ => exact ⟨rfl, rfl⟩

end Sys2Proof.Proofs
end

section
/-! PROOFS. A micro-op of the reference program keeps the reference invariant (R30, R81, R111, R182). -/

namespace Sys2Proof.Proofs

open Sys2Proof.Machine Sys2Proof.Safety

/-- The outcome is a next state that meets the invariant, with `STATE` unchanged unless it was `UNINIT`. -/
def Continues (tab : CalTab) (s : State) (r : Result) : Prop :=
  ∃ t, r = .next t ∧ Reference tab t ∧ (s.life ≠ .uninit → t.life = s.life)

/-- `r'` is `r` with these registers written, `ARG` the same and none become unwritten. -/
structure Writes (r r' : Regs) (wrote : List WorkReg) : Prop where
  arg : r'.arg = r.arg
  wrote : ∀ m ∈ wrote, m.written r' = true
  stays : ∀ m : WorkReg, m.written r = true → m.written r' = true

theorem Writes.nothing (r : Regs) : Writes r r [] := ⟨rfl, nofun, fun _ => id⟩

theorem Writes.trans {r r' r'' : Regs} {w w' : List WorkReg} (h₁ : Writes r r' w) (h₂ : Writes r' r'' w') :
    Writes r r'' (w ++ w') where
  arg := h₂.arg.trans h₁.arg
  wrote m mem := (List.mem_append.mp mem).elim (fun h => h₂.stays m (h₁.wrote m h)) (h₂.wrote m)
  stays m was := h₂.stays m (h₁.stays m was)

theorem Writes.any {r r' : Regs} {w : List WorkReg} (h : Writes r r' w) : Writes r r' [] := ⟨h.arg, nofun, h.stays⟩

section Writes
variable (r : Regs) (v : Byte)

theorem setRb_writes : Writes r (r.setRb v) [.rb] :=
  ⟨rfl, by simp [WorkReg.written], fun m was => by cases m with | rb => rfl | _ => exact was⟩

theorem setC1_writes : Writes r (r.setC1 v) [.c1] :=
  ⟨rfl, by simp [WorkReg.written], fun m was => by cases m with | c1 => rfl | _ => exact was⟩

theorem setC2_writes : Writes r (r.setC2 v) [.c2] :=
  ⟨rfl, by simp [WorkReg.written], fun m was => by cases m with | c2 => rfl | _ => exact was⟩

theorem setPidr_writes : Writes r (r.setPidr v) [.pidr] :=
  ⟨rfl, by simp [WorkReg.written], fun m was => by cases m with | pidr => rfl | _ => exact was⟩

theorem setRevr_writes : Writes r (r.setRevr v) [.revr] :=
  ⟨rfl, by simp [WorkReg.written], fun m was => by cases m with | revr => rfl | _ => exact was⟩

theorem setOm_writes : Writes r (r.setOm v) [.om] :=
  ⟨rfl, by simp [WorkReg.written], fun m was => by cases m with | om => rfl | _ => exact was⟩

theorem setPb_writes (k : Fin 5) : Writes r (r.setPb k v) [.pb k] := by
  refine ⟨rfl, by simp [WorkReg.written], fun m was => ?_⟩
  cases m with
  | pb j =>
    by_cases same : k.val = j.val
    · simp [WorkReg.written, same]
    · simpa [WorkReg.written, Vector.getElem_set_ne, same] using was
  | _ => exact was

theorem setTstart_writes (now : Word) : Writes r (r.setTstart now) [.tstart] :=
  ⟨rfl, by simp [WorkReg.written], fun m was => by cases m with | tstart => rfl | _ => exact was⟩

theorem setFb_writes (frame : Vector Byte 13) : Writes r (r.setFb frame) [.fb] :=
  ⟨rfl, by simp [WorkReg.written], fun m was => by cases m with | fb => rfl | _ => exact was⟩

/-- `T0` is no register that the invariant asks for by index. -/
theorem stamp_writes (stamp : Cell Word) : Writes r { r with t0 := stamp } [] :=
  ⟨rfl, nofun, fun m was => by cases m <;> exact was⟩

theorem writeDst_writes (dst : Dst) : Writes r (r.writeDst dst v) (dstRegs dst) := by
  cases dst with
  | discard => exact .nothing r
  | c1 => exact setC1_writes r v
  | c2 => exact setC2_writes r v
  | pidr => exact setPidr_writes r v
  | revr => exact setRevr_writes r v
  | pb k => exact setPb_writes r v k

theorem afterRead_writes (dst : Dst) (rx : List Byte) : Writes r (r.afterRead dst rx) (.rb :: dstRegs dst) :=
  (setRb_writes r _).trans (writeDst_writes _ _ dst)

end Writes

theorem upc_next {tab : CalTab} {s : State} (valid : CalTab.valid tab = true)
    (inside : s.upc.toNat + 1 < CalTab.p4 tab + 5) : (s.upc + 1).toNat = s.upc.toNat + 1 := by
  have fits := valid_fits valid
  have one : (1 : UAddr).toNat = 1 := rfl
  rw [BitVec.toNat_add, one]
  omega

theorem onlyBusMoved_update {s t : State} (h : OnlyBusMoved s t) (a : UAddr) (r : Regs) :
    OnlyBusMoved { s with upc := a, regs := r } { t with upc := a, regs := r } := by
  rw [onlyBusMoved_iff] at *
  simp_all

/-- The invariant after a move: what `Leads` says of the indices, and of the values what the two checks give. -/
theorem reference_move {tab : CalTab} {s t : State} (ref : Reference tab s) (busy : s.busy = true) {a : UAddr} {r : Regs}
    {level waits : Bool} {wrote : List WorkReg}
    (moved : OnlyBusMoved { s with upc := a, regs := r, csN := level, held := waits } t)
    (leads : Leads tab s.upc.toNat a.toNat wrote) (chip : level = !(a.toNat == 0x1E || a.toNat == 0x1F))
    (free : waits = false) (writes : Writes s.regs r wrote)
    (kept : (r.pidr = s.regs.pidr ∧ r.revr = s.regs.revr) ∨ 0x1D ≤ s.upc.toNat)
    (rotation : a.toNat ≠ 5 ∨ rotationMask s.regs.arg.val ≠ none)
    (identity : a.toNat ≠ CalTab.p4 tab + 3 ∨ (r.pidr.val, r.revr.val) = idExpect) :
    Reference tab t ∧ t.life = s.life := by
  have at_k := ref.running busy
  obtain ⟨life, upc, busy', csN, status, -, -, regs, held, mark, -, rom, frame⟩ := (onlyBusMoved_iff _ t).mp moved
  have carry (m : WorkReg) (asks : Asks tab a.toNat m) : Asks tab s.upc.toNat m ∨ m.written t.regs = true := by
    rw [regs]
    exact (leads.carries m asks).imp_right (writes.wrote m)
  have stays (m : WorkReg) (was : m.written s.regs = true) : m.written t.regs = true := by
    rw [regs]
    exact writes.stays m was
  have kept' : (t.regs.pidr = s.regs.pidr ∧ t.regs.revr = s.regs.revr) ∨ s.life ≠ .ready := by
    rw [regs]
    refine kept.imp_right fun late => ?_
    rw [at_k.life, if_neg (by omega)]
    decide
  refine ⟨reference_of_atIndex ref (busy'.trans busy) ⟨rom, frame, mark, status, life⟩ kept' ?_, life⟩
  rw [upc]
  exact atIndex_move at_k life (held.trans free) ((congrArg Regs.arg regs).trans writes.arg)
    ⟨stays .om, stays .tstart, stays .fb, fun j => stays (.pb j), stays .rb, stays .c1, stays .c2, stays .pidr, stays .revr⟩
    leads.inside leads.sameHalf (csN.trans chip) rotation (carry .om) (carry .tstart) (carry .fb) (fun j => carry (.pb j))
    (carry .rb) (carry .c1) (carry .c2) (carry .pidr) (carry .revr) (regs ▸ identity)

theorem Cell.eq_of {α : Type} {c : Cell α} {v : α} (value : c.val = v) (written : c.written = true) : c = Cell.of v := by
  obtain ⟨val, mark⟩ := c
  obtain rfl : val = v := value
  obtain rfl : mark = true := written
  rfl

/-- What is known at an index does not depend on `T0` but for a wait in progress, nor on the bus, the response and the inputs. -/
theorem atIndex_of_same {tab : CalTab} {k : Nat} {s t : State} (at_k : AtIndex tab k s) (stamp : Cell Word)
    (life : t.life = s.life) (csN : t.csN = s.csN) (regs : t.regs = { s.regs with t0 := stamp })
    (held : t.held = true → (∃ ms, (refProgram tab)[k]? = some (.wait ms)) ∧ stamp.written = true) : AtIndex tab k t where
  inside := at_k.inside
  life := life.trans at_k.life
  chipSelect := csN.trans at_k.chipSelect
  held := by rw [regs]; exact held
  arg := by rw [regs]; exact at_k.arg
  rotation := by rw [regs]; exact at_k.rotation
  mask := by rw [regs]; exact at_k.mask
  start := by rw [regs]; exact at_k.start
  burst := by rw [regs]; exact at_k.burst
  poll := by rw [regs]; exact at_k.poll
  readback := by rw [regs]; exact at_k.readback
  c1 := by rw [regs]; exact at_k.c1
  c2 := by rw [regs]; exact at_k.c2
  product := by rw [regs]; exact at_k.product
  revision := by rw [regs]; exact at_k.revision
  identity := by rw [regs]; exact at_k.identity

theorem leads_silent {tab : CalTab} {k k' : Nat} (inside : k' < CalTab.p4 tab + 5) (half : k < 0x1D ↔ k' < 0x1D)
    (silent : k' = 0x05 ∨ k' = 0x1E ∨ k' = 0x20) : Leads tab k k' [] := by
  obtain ⟨h1, h2, h3, h4⟩ := positions tab
  refine ⟨inside, half, fun m asks => ?_⟩
  cases m <;> simp only [Asks] at asks <;> omega

/-- `BARGBAD` and `OMROT` agree on the arguments there is a mask for (R141, R142). -/
theorem rotationMask_of_argbad {s : State} (argOk : s.argbad = false) : rotationMask s.regs.arg.val ≠ none := by
  rw [State.argbad, decide_eq_false_iff_not] at argOk
  unfold rotationMask
  split_ifs <;> simp_all

/-- A status `END` may name is no `UFAULT`. -/
theorem encodable_code (status : Status) (encodable : status.encodable = true) :
    status.code ≠ Status.ufault.code ∧ status.code ≠ 7 := by
  revert encodable
  cases status <;> decide

/-- An instruction that is not refused. -/
theorem guarded_continues {tab : CalTab} {s u v : State} {ok : Bool} (isOk : ok = true)
    (continues : Continues tab s (.next u)) : Continues tab s (.next (if ok then u else v)) := by
  rwa [if_pos isOk]

section Running
variable {tab : CalTab} {s : State} (valid : CalTab.valid tab = true) (ref : Reference tab s) (busy : s.busy = true)
include ref busy

theorem reference_moveOn {t : State} {a : UAddr} {r : Regs} {waits : Bool} {wrote : List WorkReg}
    (moved : OnlyBusMoved { s with upc := a, regs := r, held := waits } t) (leads : LeadsOn tab s.upc.toNat a.toNat wrote)
    (free : waits = false) (writes : Writes s.regs r wrote)
    (kept : (r.pidr = s.regs.pidr ∧ r.revr = s.regs.revr) ∨ 0x1D ≤ s.upc.toNat) : Reference tab t ∧ t.life = s.life := by
  refine reference_move ref busy moved leads.toLeads ?_ free writes kept (.inl leads.noRotation) (.inl leads.noIdentity)
  rw [(ref.running busy).chipSelect, Bool.eq_iff_iff]
  simpa using not_congr leads.level

theorem csN_of_high (high : High s.upc.toNat) : s.csN = true := by
  rw [(ref.running busy).chipSelect]
  simpa using high

/-- Only a `WAIT` is run with a wait in progress. -/
theorem free_of_noWait {i : Instr} (at_k : (refProgram tab)[s.upc.toNat]? = some i) (noWait : ∀ ms, i ≠ .wait ms) :
    s.held = false := by
  by_contra held
  obtain ⟨⟨ms, wait⟩, -⟩ := (ref.running busy).held (Bool.eq_true_of_not_eq_false held)
  exact noWait ms (Option.some.inj (at_k.symm.trans wait))

theorem jump_continues {target : UAddr} (leads : LeadsOn tab s.upc.toNat target.toNat []) (free : s.held = false) :
    Continues tab s (.next (s.setUpc target)) := by
  have next := reference_moveOn ref busy (t := s.setUpc target) (a := target) (r := s.regs) (waits := s.held) rfl leads free
    (.nothing _) (.inl ⟨rfl, rfl⟩)
  exact ⟨_, rfl, next.1, fun _ => next.2⟩

/-- A wait that goes on stays at its index, `T0` written. -/
theorem reference_hold (ms : BitVec 16) (at_k : (refProgram tab)[s.upc.toNat]? = some (.wait ms)) (stamp : Cell Word)
    (written : stamp.written = true) : Reference tab { s with regs := { s.regs with t0 := stamp }, held := true } :=
  reference_of_atIndex ref busy ⟨rfl, rfl, rfl, rfl, rfl⟩ (.inl ⟨rfl, rfl⟩)
    (atIndex_of_same (ref.running busy) stamp rfl rfl rfl fun _ => ⟨⟨ms, at_k⟩, written⟩)

/-- What `END` reads has been written. -/
theorem resultWritten_of_asked (result : ResultSel) (asked : ResultAsked tab s.upc.toNat result) :
    s.regs.resultWritten result = true := by
  have here := ref.running busy
  cases result with
  | none => rfl
  | id =>
    obtain ⟨pidr, revr⟩ := ref.identity (by rw [here.life]; exact if_pos asked)
    rw [Regs.resultWritten, pidr, revr]
    rfl
  | burst => exact atIndex_asked here .fb asked
  | polled =>
    obtain ⟨pb1, pb2, pb3, pb4⟩ := asked
    have w1 : (s.regs.pb[1]).written = true := atIndex_asked here (.pb 1) pb1
    have w2 : (s.regs.pb[2]).written = true := atIndex_asked here (.pb 2) pb2
    have w3 : (s.regs.pb[3]).written = true := atIndex_asked here (.pb 3) pb3
    have w4 : (s.regs.pb[4]).written = true := atIndex_asked here (.pb 4) pb4
    simp [Regs.resultWritten, w1, w2, w3, w4]

theorem end_continues {status : Status} {result : ResultSel} {next : NextSel}
    (checked : Checked tab s.upc.toNat (.endOp status result next)) :
    Continues tab s (exec (.endOp status result next) s) := by
  obtain ⟨encodable, high, asked, elsewhere, ready⟩ := checked
  obtain ⟨h1, h2, h3, h4⟩ := positions tab
  have here := ref.running busy
  have csN := csN_of_high ref busy high
  have reads : endWritten status result s.regs = true := by
    rw [endWritten, resultWritten_of_asked ref busy result asked, ite_self]
  have uninit (late : 0x1D ≤ s.upc.toNat) : s.life = .uninit := by rw [here.life, if_neg (by omega)]
  have meaning := execEnd_responds status result next s encodable csN
  rw [reads, noteRead_true] at meaning
  refine ⟨_, meaning, ⟨ref.rom, ref.noFrame, ref.noUndefRead, encodable_code status encodable, ?_, fun _ => ⟨csN, rfl⟩,
    nofun⟩, fun notUninit => ?_⟩
  · intro toReady
    cases next with
    | keep => exact ref.identity toReady
    | failed => cases toReady
    | ready =>
      have k := ready rfl
      have pair := here.identity k
      exact ⟨Cell.eq_of (congrArg Prod.fst pair) (here.product (by omega)),
        Cell.eq_of (congrArg Prod.snd pair) (here.revision (by omega))⟩
  · rcases elsewhere with rfl | late
    · rfl
    · exact absurd (uninit late) notUninit

/-! ## The micro-ops that lead on -/

include valid

/-- The common case: on to the next index. -/
theorem reference_next {t : State} {r : Regs} {waits : Bool} {wrote : List WorkReg}
    (moved : OnlyBusMoved { s with upc := s.upc + 1, regs := r, held := waits } t)
    (leads : LeadsOn tab s.upc.toNat (s.upc.toNat + 1) wrote) (free : waits = false) (writes : Writes s.regs r wrote)
    (kept : (r.pidr = s.regs.pidr ∧ r.revr = s.regs.revr) ∨ 0x1D ≤ s.upc.toNat) : Reference tab t ∧ t.life = s.life :=
  reference_moveOn ref busy moved (by rwa [upc_next valid leads.inside]) free writes kept

/-- A transfer, then register writes from what it received. -/
theorem transfer_continues (tx : List Byte) (f : List Byte → Regs → Regs) {wrote : List WorkReg} (high : High s.upc.toNat)
    (leads : LeadsOn tab s.upc.toNat (s.upc.toNat + 1) wrote) (free : s.held = false)
    (writes : ∀ rx, Writes s.regs (f rx s.regs) wrote)
    (kept : (∀ rx, (f rx s.regs).pidr = s.regs.pidr ∧ (f rx s.regs).revr = s.regs.revr) ∨ 0x1D ≤ s.upc.toNat) :
    Continues tab s (.next (transfer s tx fun rx u => (u.setRegs (f rx u.regs)).advance)) := by
  have csN := csN_of_high ref busy high
  have moved := xfer_only_bus s tx csN
  have regs : (xfer s tx).2.regs = s.regs := by rw [moved]
  have upc : (xfer s tx).2.upc = s.upc := by rw [moved]
  rw [transfer_high s tx _ csN]
  refine ⟨_, rfl, ?_⟩
  have next := reference_next valid ref busy
    (onlyBusMoved_update moved (s.upc + 1) (f (xfer s tx).1 s.regs)) leads free (writes _) (kept.imp_left fun h => h _)
  rw [← upc, ← regs] at next
  exact ⟨next.1, fun _ => next.2.trans rfl⟩

/-- Sequencer work that leaves the bus, then on to the next index. -/
theorem work_continues (r : Regs) {wrote : List WorkReg} (leads : LeadsOn tab s.upc.toNat (s.upc.toNat + 1) wrote)
    (free : s.held = false) (writes : Writes s.regs r wrote) (kept : r.pidr = s.regs.pidr ∧ r.revr = s.regs.revr) :
    Continues tab s (.next (s.setRegs r).advance) := by
  have next := reference_next valid ref busy (t := (s.setRegs r).advance) (r := r) (waits := s.held) rfl leads free writes
    (.inl kept)
  exact ⟨_, rfl, next.1, fun _ => next.2⟩

/-- The same for work that reads a register, which has been written. -/
theorem readWork_continues (r : Regs) {wrote : List WorkReg} {written : Bool} (reads : written = true)
    (leads : LeadsOn tab s.upc.toNat (s.upc.toNat + 1) wrote) (free : s.held = false) (writes : Writes s.regs r wrote)
    (kept : r.pidr = s.regs.pidr ∧ r.revr = s.regs.revr) :
    Continues tab s (.next ((s.noteRead written).setRegs r).advance) := by
  rw [reads, noteRead_true]
  exact work_continues valid ref busy r leads free writes kept

/-- A branch whose registers have been written. -/
theorem branch_continues (cond : Bool) {written : Bool} {target : UAddr} (reads : written = true)
    (taken : LeadsOn tab s.upc.toNat target.toNat []) (next : LeadsOn tab s.upc.toNat (s.upc.toNat + 1) [])
    (free : s.held = false) : Continues tab s (.next (branch cond target (s.noteRead written))) := by
  rw [reads, noteRead_true]
  cases cond with
  | true => exact jump_continues ref busy taken free
  | false => exact work_continues valid ref busy s.regs next free (.nothing _) ⟨rfl, rfl⟩

/-! ## The micro-ops that do more than lead on -/

/-- Chip-select moved by `CSLO` or `CSHI`, at the two ends of INIT's pulse. -/
theorem pulse_continues {t : State} {level : Bool}
    (moved : OnlyBusMoved { s with upc := s.upc + 1, csN := level } t) (free : s.held = false)
    (edge : s.upc.toNat = 0x1D ∧ level = false ∨ s.upc.toNat = 0x1F ∧ level = true) :
    Reference tab t ∧ t.life = s.life := by
  obtain ⟨h1, h2, h3, h4⟩ := positions tab
  have upc := upc_next (s := s) valid (by omega)
  refine reference_move ref busy (r := s.regs) (waits := s.held) moved
    (leads_silent (by omega) (by omega) (by omega)) ?_ free (.nothing _) (.inl ⟨rfl, rfl⟩) (.inl (by omega)) (.inl (by omega))
  rw [upc]
  rcases edge with ⟨k, rfl⟩ | ⟨k, rfl⟩ <;> rw [k] <;> rfl

theorem cslo_continues (free : s.held = false) (k : s.upc.toNat = 0x1D) : Continues tab s (exec .cslo s) := by
  have high := csN_of_high ref busy (by rw [k]; decide)
  show Continues tab s (.next (if s.csN then s.selectChip.advance else uFault s))
  rw [if_pos high]
  obtain ⟨next, life⟩ := pulse_continues valid ref busy (t := s.selectChip.advance) rfl free (.inl ⟨k, rfl⟩)
  exact ⟨_, rfl, next, fun _ => life⟩

theorem cshi_continues (free : s.held = false) (k : s.upc.toNat = 0x1F) : Continues tab s (exec .cshi s) := by
  have low : s.csN = false := by rw [(ref.running busy).chipSelect, k]; rfl
  show Continues tab s (.next (if s.csN then uFault s else s.releaseChip.advance))
  rw [if_neg (by simp [low])]
  obtain ⟨next, life⟩ := pulse_continues valid ref busy (t := s.releaseChip.advance) rfl free (.inr ⟨k, rfl⟩)
  exact ⟨_, rfl, next, fun _ => life⟩

/-- A check that falls through to an index at which something is asked about the value checked. -/
theorem fallThrough_continues (free : s.held = false) (leads : Leads tab s.upc.toNat (s.upc.toNat + 1) [])
    (high : High s.upc.toNat ∧ High (s.upc.toNat + 1))
    (rotation : s.upc.toNat + 1 ≠ 0x05 ∨ rotationMask s.regs.arg.val ≠ none)
    (identity : s.upc.toNat + 1 ≠ CalTab.p4 tab + 3 ∨ (s.regs.pidr.val, s.regs.revr.val) = idExpect) :
    Continues tab s (.next s.advance) := by
  have upc := upc_next (s := s) valid leads.inside
  rw [← upc] at leads rotation identity high
  obtain ⟨next, life⟩ := reference_move ref busy (t := s.advance) (a := s.upc + 1) (r := s.regs) (waits := s.held)
    (level := s.csN) rfl leads (by rw [csN_of_high ref busy high.1]; simpa using high.2) free (.nothing _)
    (.inl ⟨rfl, rfl⟩) rotation identity
  exact ⟨_, rfl, next, fun _ => life⟩

/-- `BIDBAD`, which falls through to `END READY` with the identity checked only. -/
theorem bidbad_continues {target : UAddr} (free : s.held = false) (k : s.upc.toNat = CalTab.p4 tab + 2)
    (taken : LeadsOn tab s.upc.toNat target.toNat []) : Continues tab s (exec (.bidbad target) s) := by
  obtain ⟨h1, h2, h3, h4⟩ := positions tab
  have here := ref.running busy
  have reads : s.idWritten = true := by
    rw [State.idWritten, here.product (by omega), here.revision (by omega)]
    rfl
  show Continues tab s (.next (branch s.idbad target (s.noteRead s.idWritten)))
  rw [reads, noteRead_true]
  cases bad : s.idbad with
  | true => exact jump_continues ref busy taken free
  | false =>
    have good : (s.regs.pidr.val, s.regs.revr.val) = idExpect := by simpa [State.idbad] using bad
    have leads : Leads tab s.upc.toNat (s.upc.toNat + 1) [] := by
      refine ⟨by omega, by omega, fun m asks => .inl ?_⟩
      cases m <;> simp only [Asks] at asks ⊢ <;> omega
    exact fallThrough_continues valid ref busy free leads (by omega) (.inl (by omega)) (.inr good)

/-- `BARGBAD`, which falls through to `OMROT` with an argument in the rotation table only. -/
theorem bargbad_continues {target : UAddr} (free : s.held = false) (k : s.upc.toNat = 0x04)
    (taken : LeadsOn tab s.upc.toNat target.toNat []) : Continues tab s (exec (.bargbad target) s) := by
  obtain ⟨h1, h2, h3, h4⟩ := positions tab
  show Continues tab s (.next (branch s.argbad target (s.noteRead s.regs.arg.written)))
  rw [(ref.running busy).arg, noteRead_true]
  cases bad : s.argbad with
  | true => exact jump_continues ref busy taken free
  | false =>
    exact fallThrough_continues valid ref busy free (leads_silent (by omega) (by omega) (by omega)) (by omega)
      (.inr (rotationMask_of_argbad bad)) (.inl (by omega))

theorem omrot_continues (free : s.held = false) (k : s.upc.toNat = 0x05)
    (leads : LeadsOn tab s.upc.toNat (s.upc.toNat + 1) [.om]) : Continues tab s (exec .omrot s) := by
  have here := ref.running busy
  obtain ⟨mask, isMask⟩ := Option.ne_none_iff_exists'.mp (here.rotation k)
  have meaning : exec .omrot s = .next ((s.noteRead s.regs.arg.written).setRegs (s.regs.setOm mask)).advance := by
    show (Host.Outcome.next _ : Result) = _
    rw [isMask]
  rw [meaning]
  exact readWork_continues valid ref busy _ here.arg leads free (setOm_writes _ mask) ⟨rfl, rfl⟩

/-! ## `WAIT` -/

theorem waitTest_continues (ms : BitVec 16) (at_k : (refProgram tab)[s.upc.toNat]? = some (.wait ms))
    (leads : LeadsOn tab s.upc.toNat (s.upc.toNat + 1) []) (stamp : Cell Word) (written : stamp.written = true) :
    Continues tab s (.next (waitTest ms (s.setRegs { s.regs with t0 := stamp }))) := by
  by_cases hold : ((s.setRegs { s.regs with t0 := stamp }).elapsed stamp.val).toNat < ms.toNat
  · rw [waitTest_hold ms _ hold]
    exact ⟨_, rfl, reference_hold ref busy ms at_k stamp written, fun _ => rfl⟩
  · rw [waitTest_done ms _ (Nat.not_lt.mp hold)]
    obtain ⟨next, life⟩ := reference_next valid ref busy
      (t := { s with regs := { s.regs with t0 := stamp }, held := false, upc := s.upc + 1 })
      (r := { s.regs with t0 := stamp }) (waits := false) rfl leads rfl (stamp_writes _ stamp) (.inl ⟨rfl, rfl⟩)
    exact ⟨_, rfl, next, fun _ => life⟩

theorem wait_continues (ms : BitVec 16) (at_k : (refProgram tab)[s.upc.toNat]? = some (.wait ms))
    (leads : LeadsOn tab s.upc.toNat (s.upc.toNat + 1) []) : Continues tab s (exec (.wait ms) s) := by
  show Continues tab s (.next (if s.held then waitTest ms (s.noteRead s.regs.t0.written)
    else waitTest ms (s.setRegs (s.regs.setT0 s.env.now))))
  cases held : s.held with
  | true =>
    have written := ((ref.running busy).held held).2
    rw [written, noteRead_true, if_pos rfl]
    exact waitTest_continues valid ref busy ms at_k leads s.regs.t0 written
  | false => exact waitTest_continues valid ref busy ms at_k leads (Cell.of s.env.now) rfl

/-! ## Every micro-op of the program -/

theorem exec_continues {i : Instr} (at_k : (refProgram tab)[s.upc.toNat]? = some i) (checked : Checked tab s.upc.toNat i) :
    Continues tab s (exec i s) := by
  have asked := atIndex_asked (ref.running busy)
  have free := free_of_noWait ref busy at_k
  have same : s.regs.pidr = s.regs.pidr ∧ s.regs.revr = s.regs.revr := ⟨rfl, rfl⟩
  cases i with
  | wr reg val =>
    obtain ⟨ok, high, leads⟩ := checked
    exact guarded_continues ok
      (transfer_continues valid ref busy _ (fun _ r => r) high leads (free nofun) (fun _ => .nothing _) (.inl fun _ => same))
  | rd reg dst =>
    obtain ⟨ok, high, leads, identity⟩ := checked
    refine guarded_continues ok (transfer_continues valid ref busy _ (fun rx r => r.afterRead dst rx) high leads (free nofun)
      (afterRead_writes _ dst) ?_)
    cases dst with
    | pidr => exact .inr (identity (.inl rfl))
    | revr => exact .inr (identity (.inr rfl))
    | discard | c1 | c2 | pb => exact .inl fun _ => ⟨rfl, rfl⟩
  | burst reg =>
    obtain ⟨ok, high, leads⟩ := checked
    exact guarded_continues ok (transfer_continues valid ref busy _ (fun rx r => r.setFb (burstFrame rx)) high leads
      (free nofun) (fun _ => setFb_writes _ _) (.inl fun _ => same))
  | wrr reg src =>
    obtain ⟨ok, high, reads, leads⟩ := checked
    have written : (s.regs.readSrc src).written = true := by cases src <;> exact asked _ reads
    refine guarded_continues (by rw [ok, csN_of_high ref busy high]; rfl) ?_
    rw [written, noteRead_true]
    exact transfer_continues valid ref busy _ (fun _ r => r) high leads (free nofun) (fun _ => .nothing _) (.inl fun _ => same)
  | wait ms => exact wait_continues valid ref busy ms at_k checked
  | cslo => exact cslo_continues valid ref busy (free nofun) checked
  | cshi => exact cshi_continues valid ref busy (free nofun) checked
  | jmp target => exact jump_continues ref busy checked (free nofun)
  | bb7 | bnz =>
    obtain ⟨reads, taken, next⟩ := checked
    exact branch_continues valid ref busy _ (asked .rb reads) taken next (free nofun)
  | bqok =>
    obtain ⟨reads, taken, next⟩ := checked
    exact branch_continues valid ref busy _ (asked .fb reads) taken next (free nofun)
  | bdrdy =>
    obtain ⟨reads, taken, next⟩ := checked
    exact branch_continues valid ref busy _ (asked (.pb 0) reads) taken next (free nofun)
  | btmo =>
    obtain ⟨reads, taken, next⟩ := checked
    have written : s.tmoWritten = true := by
      rw [State.tmoWritten, (ref.running busy).arg, Bool.and_true]
      exact asked .tstart reads
    exact branch_continues valid ref busy _ written taken next (free nofun)
  | bidbad => exact bidbad_continues valid ref busy (free nofun) checked.1 checked.2
  | bargbad => exact bargbad_continues valid ref busy (free nofun) checked.1 checked.2
  | xf1 => exact readWork_continues valid ref busy _ (asked .c1 checked.1) checked.2 (free nofun) (setC1_writes _ _).any same
  | xf2 => exact readWork_continues valid ref busy _ (asked .c2 checked.1) checked.2 (free nofun) (setC2_writes _ _).any same
  | tstamp => exact work_continues valid ref busy _ checked (free nofun) (setTstart_writes _ _) same
  | omflg => exact readWork_continues valid ref busy _ (ref.running busy).arg checked (free nofun) (setOm_writes _ _) same
  | omrot => exact omrot_continues valid ref busy (free nofun) checked.1 checked.2
  | endOp => exact end_continues ref busy checked
  | init | getId | setRotation | setOrientation | getMotion | getMotionSlow | wFrame | rFrame | bFrame => exact checked.elim

end Running

end Sys2Proof.Proofs
end

section
/-! PROOFS. Every step keeps the reference invariant, and only reset leaves `READY` and `FAILED` (R112, R136, R182). -/

namespace Sys2Proof.Proofs

open Sys2Proof.Machine Sys2Proof.Safety

theorem beginStep_reference {tab : CalTab} {s : State} (ref : Reference tab s) : Reference tab (beginStep s) where
  rom := ref.rom
  noFrame := rfl
  noUndefRead := ref.noUndefRead
  status := ref.status
  identity := ref.identity
  idle := ref.idle
  running busy := atIndex_of_same (ref.running busy) s.regs.t0 rfl rfl rfl (ref.running busy).held

/-! ## Dispatch -/

/-- INIT's program begins at 0x001D, the others below it, none where a register is asked for. -/
theorem entry_cases : ∀ op : BitVec 3, ¬(op = 6 ∨ op = 7) →
    (op = 0 ∧ (entry op).toNat = 0x1D) ∨ (op ≠ 0 ∧ (entry op).toNat ∈ [0x00, 0x01, 0x04, 0x09, 0x11]) := by decide

theorem asks_nothing_at_entry (tab : CalTab) (k : Nat) (entry : k ∈ [0x00, 0x01, 0x04, 0x09, 0x11, 0x1D]) (m : WorkReg) :
    ¬Asks tab k m := by
  obtain ⟨h1, h2, h3, h4⟩ := positions tab
  intro asks
  simp only [List.mem_cons, List.not_mem_nil, or_false] at entry
  cases m <;> simp only [Asks] at asks <;> omega

section Idle
variable {tab : CalTab} {s : State} (ref : Reference tab s) (idle : s.busy = false)
include ref idle

theorem respond_reference (status : Status) (data : Word) (noFault : status.code ≠ Status.ufault.code ∧ status.code ≠ 7)
    (op : BitVec 3) (arg : Word) : Reference tab ((s.emit (.cmd op arg)).respond status data) where
  rom := ref.rom
  noFrame := ref.noFrame
  noUndefRead := ref.noUndefRead
  status := noFault
  identity := ref.identity
  idle _ := ⟨(ref.idle idle).1, rfl⟩
  running := nofun

/-- At an entry point nothing is asked but the lifecycle state that allows the command. -/
theorem start_reference (op : BitVec 3) (arg : Word) (known : ¬(op = 6 ∨ op = 7))
    (allowed : op = 0 ∧ s.life = .uninit ∨ op ≠ 0 ∧ s.life = .ready) :
    Reference tab ((((s.emit (.cmd op arg)).setRegs (s.regs.setArg arg)).setBusy true).setUpc (entry op)) := by
  obtain ⟨h1, h2, h3, h4⟩ := positions tab
  obtain ⟨high, free⟩ := ref.idle idle
  have at_entry : (entry op).toNat ∈ [0x00, 0x01, 0x04, 0x09, 0x11, 0x1D] := by
    rcases entry_cases op known with ⟨-, k⟩ | ⟨-, k⟩
    · rw [k]; decide
    · exact List.mem_append_left [0x1D] k
  have nothing (m : WorkReg) := asks_nothing_at_entry tab _ at_entry m
  have life : s.life = if (entry op).toNat < 0x1D then .ready else .uninit := by
    rcases entry_cases op known with ⟨init, k⟩ | ⟨other, k⟩
    · rw [(allowed.resolve_right fun h => h.1 init).2, k]; rfl
    · rw [(allowed.resolve_left fun h => other h.1).2, if_pos]
      simp only [List.mem_cons, List.not_mem_nil, or_false] at k
      omega
  simp only [List.mem_cons, List.not_mem_nil, or_false] at at_entry
  refine ⟨ref.rom, ref.noFrame, ref.noUndefRead, ref.status, ref.identity, nofun, fun _ => ?_⟩
  exact {
    inside := by show (entry op).toNat < _; omega
    life := life
    chipSelect := by
      show s.csN = !((entry op).toNat == 0x1E || (entry op).toNat == 0x1F)
      rw [high, eq_comm]
      simp
      omega
    held := fun held => absurd (free.symm.trans held) (by decide)
    arg := rfl
    rotation := fun (k : (entry op).toNat = 5) => by omega
    mask := fun asks => absurd asks (nothing .om)
    start := fun asks => absurd asks (nothing .tstart)
    burst := fun asks => absurd asks (nothing .fb)
    poll := fun j asks => absurd asks (nothing (.pb j))
    readback := fun asks => absurd asks (nothing .rb)
    c1 := fun asks => absurd asks (nothing .c1)
    c2 := fun asks => absurd asks (nothing .c2)
    product := fun asks => absurd asks (nothing .pidr)
    revision := fun asks => absurd asks (nothing .revr)
    identity := fun (k : (entry op).toNat = _) => by omega }

theorem dispatch_reference (op : BitVec 3) (arg : Word) : Reference tab (dispatch op arg s) := by
  obtain ⟨-, h⟩ | ⟨-, -, h⟩ | ⟨known, allowed, h⟩ := dispatch_cases op arg s idle <;> rw [h]
  · exact respond_reference ref idle .badCmd 0 (by decide) op arg
  · exact respond_reference ref idle .badState 0 (by decide) op arg
  · exact start_reference ref idle op arg known allowed

end Idle

/-! ## Reset -/

section Running
variable {tab : CalTab} {s : State} (valid : CalTab.valid tab = true) (ref : Reference tab s)
include valid ref

/-- The micro-op at `UPC` while the block runs. -/
theorem fetched (busy : s.busy = true) :
    ∃ i, (refProgram tab)[s.upc.toNat]? = some i ∧ Checked tab s.upc.toNat i ∧
      s.rom.read s.upc.toNat = some (uword i) ∧ decodeUop (uword i) = .ok i := by
  obtain ⟨i, at_k, checked⟩ := refProgram_checked valid s.upc.toNat (ref.running busy).inside
  exact ⟨i, at_k, checked, by rw [ref.rom, Rom.read_reference, at_k]; rfl, decodeUop_uword i checked.legal⟩

/-- A transfer that a reset cuts sends a register that has been written. -/
theorem pendingWritten_reference (tx : List Byte) (bytes : pendingTransfer s = some tx) : pendingWritten s = true := by
  cases busy : s.busy with
  | false => rw [pendingTransfer_idle s ref.noFrame busy] at bytes; cases bytes
  | true =>
    obtain ⟨i, -, checked, read, decoded⟩ := fetched valid ref busy
    rw [pendingWritten_word s _ i ref.noFrame busy read decoded]
    cases i with
    | wrr reg src =>
      obtain ⟨-, -, reads, -⟩ := checked
      cases src <;> exact atIndex_asked (ref.running busy) _ reads
    | _ => rfl

theorem resetStep_undefRead (cut : Option Nat) : (resetStep cut s).undefRead = false := by
  rcases reset_cases cut s with between | ⟨n, tx, rfl, bytes⟩
  · rw [(resetStep_between_adds s cut between).1, ref.noUndefRead]
  · rw [(resetStep_inside_adds s tx n bytes).1, pendingWritten_reference valid ref tx bytes, ref.noUndefRead]
    rfl

theorem resetStep_reference (cut : Option Nat) : Reference tab (resetStep cut s) := by
  have mark := resetStep_undefRead valid ref cut
  obtain ⟨u, isReset, rom, -⟩ := resetStep_eq_hardReset cut s
  rw [isReset, hardReset_eq] at mark ⊢
  exact ⟨rom.trans ref.rom, rfl, mark, (reference_resetWith tab).status, nofun, fun _ => ⟨rfl, rfl⟩, nofun⟩

/-! ## The step -/

theorem step_continues (live : resetNext s = false) : Continues tab s (step s) := by
  have begun := beginStep_reference ref
  cases busy : s.busy with
  | true =>
    obtain ⟨i, at_k, checked, read, decoded⟩ := fetched valid ref busy
    rw [step_running s _ i live ref.noFrame busy read decoded]
    exact exec_continues valid begun busy at_k checked
  | false =>
    by_cases command : ∃ op arg rest, s.env.host = .cmd op arg :: rest
    · obtain ⟨op, arg, rest, host⟩ := command
      rw [step_command s op arg rest ref.noFrame busy host]
      exact ⟨_, rfl, dispatch_reference begun busy op arg, fun _ => dispatch_life op arg _⟩
    · have silent (op : BitVec 3) (arg : Word) (rest : List HostInput) : s.env.host ≠ .cmd op arg :: rest :=
        fun host => command ⟨op, arg, rest, host⟩
      rw [step_idle s ref.noFrame busy live silent]
      exact ⟨_, rfl, begun, fun _ => rfl⟩

end Running

/-- Settles O54: a reset puts the machine back where the invariant asks nothing; any other step continues. -/
theorem stepKeepsTheReferenceInvariant : Obligations.StepKeepsTheReferenceInvariant := by
  intro tab s valid ref
  cases live : resetNext s with
  | true =>
    obtain ⟨cut, reset⟩ := step_reset s live
    exact ⟨_, reset, resetStep_reference valid ref cut⟩
  | false =>
    obtain ⟨t, h, kept, -⟩ := step_continues valid ref live
    exact ⟨t, h, kept⟩

/-- Settles O55: `END` in INIT's program, where `STATE` is `UNINIT`, is the only micro-op that writes `STATE`. -/
theorem onlyResetLeavesReadyAndFailed : Obligations.OnlyResetLeavesReadyAndFailed := by
  intro tab s t valid ref live h
  obtain ⟨u, hu, -, life⟩ := step_continues valid ref live
  obtain rfl := Host.Outcome.next.inj (hu.symm.trans h)
  exact ⟨fun ready => (life (by rw [ready]; decide)).trans ready, fun failed => (life (by rw [failed]; decide)).trans failed⟩

end Sys2Proof.Proofs
end

section
/-! PROOFS. Where the bytes of a transfer come from (R42, R80): the answers given, in order, and then the free oracle. -/

namespace Sys2Proof.Proofs

open Sys2Proof.Machine

theorem exchange_received (s : State) (tx : Byte) :
    (exchange s tx).1 = s.env.chip.head?.getD (Config.slave s.trace tx) := by
  cases given : s.env.chip <;> simp [exchange, State.answer, given]

theorem exchange_chip (s : State) (tx : Byte) : (exchange s tx).2.env.chip = s.env.chip.tail := by simp [exchange]

theorem exchange_trace_length (s : State) (tx : Byte) : (exchange s tx).2.trace.length = s.trace.length + 1 := by
  simp [exchange_trace]

/-- Bytes exchanged only add to the trace, so what stood in it before them is still its beginning. -/
theorem exchangeAll_trace_take (s : State) (tx : List Byte) :
    (exchangeAll s tx).2.trace.take s.trace.length = s.trace := by
  obtain ⟨evs, grown, -⟩ := exchangeAll_trace s tx
  rw [grown, List.take_left]

theorem exchangeAll_trace_length (s : State) (tx : List Byte) :
    (exchangeAll s tx).2.trace.length = s.trace.length + tx.length := by
  induction tx generalizing s with
  | nil => rfl
  | cons b rest ih => rw [exchangeAll_cons, ih, exchange_trace_length, List.length_cons, Nat.add_assoc, Nat.add_comm 1]

theorem exchangeAll_chip (s : State) (tx : List Byte) :
    (exchangeAll s tx).2.env.chip = s.env.chip.drop tx.length := by
  induction tx generalizing s with
  | nil => rfl
  | cons b rest ih => rw [exchangeAll_cons, ih, exchange_chip, List.drop_tail, List.length_cons]

/-- Byte `i` is answer `i` of those given or, past their end, the oracle's after the `i` bytes before it. -/
theorem exchangeAll_received (s : State) (tx : List Byte) (i : Nat) (hi : i < tx.length) :
    (exchangeAll s tx).1[i]? =
      some (s.env.chip[i]?.getD (Config.slave ((exchangeAll s tx).2.trace.take (s.trace.length + i)) tx[i])) := by
  induction tx generalizing s i with
  | nil => cases hi
  | cons b rest ih =>
    rw [exchangeAll_cons]
    cases i with
    | zero =>
      have before : (exchangeAll (exchange s b).2 rest).2.trace.take s.trace.length = s.trace :=
        exchangeAll_trace_take s (b :: rest)
      simp [exchange_received, before, List.head?_eq_getElem?]
    | succ i =>
      have later := ih (exchange s b).2 i (Nat.lt_of_succ_lt_succ hi)
      rw [exchange_chip, exchange_trace_length, List.getElem?_tail, Nat.add_assoc, Nat.add_comm 1 i] at later
      exact later

/-- `CSH` comes after every byte, so it is not in the trace before one. -/
theorem xfer_trace_take (s : State) (tx : List Byte) (i : Nat) (hi : i ≤ tx.length) :
    (xfer s tx).2.trace.take (s.trace.length + 1 + i) =
      (exchangeAll s.selectChip tx).2.trace.take (s.selectChip.trace.length + i) := by
  have length : s.selectChip.trace.length = s.trace.length + 1 := by simp
  rw [xfer_eq, State.releaseChip_trace, State.tick_trace, length, List.take_append_of_le_length]
  rw [exchangeAll_trace_length, length]
  omega

theorem xfer_chip (s : State) (tx : List Byte) : (xfer s tx).2.env.chip = s.env.chip.drop tx.length := by
  simp [xfer_eq, exchangeAll_chip]

/-- Settles O15: a transfer's bytes are exchanged in order, after its `CSL` and before its `CSH`. -/
theorem everyByteIsTheOraclesAnswer : Obligations.EveryByteIsTheOraclesAnswer := by
  intro s tx i hi
  have received := exchangeAll_received s.selectChip tx i hi
  rw [State.selectChip_env, ← xfer_trace_take s tx i hi.le, List.getD_getElem?] at received
  exact ⟨received, xfer_chip s tx⟩

end Sys2Proof.Proofs
end

section
/-! PROOFS. The bits of a byte on the serial lines (R47, R86). -/

namespace Sys2Proof.Proofs

open Sys2Proof.Machine

theorem wireBits_getElem (v : Byte) (n : Nat) (hn : n < 8) : (wireBits v)[n] = v.getLsbD (7 - n) := by
  match n, hn with
  | 0, _ | 1, _ | 2, _ | 3, _ | 4, _ | 5, _ | 6, _ | 7, _ => rfl

theorem wireBits_take_succ (v : Byte) (n : Nat) (hn : n < 8) :
    (wireBits v).take (n + 1) = (wireBits v).take n ++ [v.getLsbD (7 - n)] := by
  rw [List.take_succ_eq_append_getElem hn, wireBits_getElem v n hn]

theorem wireBits_take_length (v : Byte) (n : Nat) (hn : n < 8) : ((wireBits v).take n).length = n :=
  List.length_take_of_le (Nat.le_of_lt hn)

/-- After `n` shifts the top bit is the one that stood `n` below it. -/
theorem msb_shiftLeft_byte (v : Byte) (n : Nat) (hn : n < 8) : (v <<< n).msb = v.getLsbD (7 - n) := by
  rw [BitVec.msb_eq_getLsbD_last, BitVec.getLsbD_shiftLeft]
  simp [Nat.le_of_lt_succ hn]

section Pulses
variable (mode : SpiMode) (b : Bus)

theorem pulses_concat (levels : List Bool) (level : Bool) :
    b.pulses mode (levels ++ [level]) = (b.pulses mode levels).pulse mode level := by
  induction levels generalizing b with
  | nil => rfl
  | cons first rest ih => exact ih (b.pulse mode first)

theorem pulses_txShift (levels : List Bool) : (b.pulses mode levels).txShift = b.txShift <<< levels.length := by
  induction levels generalizing b with
  | nil => simp [Bus.pulses]
  | cons level rest ih => rw [Bus.pulses, ih, Bus.pulse_eq, ← BitVec.shiftLeft_add, List.length_cons, Nat.add_comm]

theorem pulses_bitCount (levels : List Bool) : (b.pulses mode levels).bitCount = b.bitCount - levels.length := by
  induction levels generalizing b with
  | nil => rfl
  | cons level rest ih => rw [Bus.pulses, ih, Bus.pulse_eq, Nat.sub_sub, List.length_cons, Nat.add_comm]

/-- The lines after pulse `n` of a byte, the first being pulse 0. -/
theorem pulses_wireBits (tx answer : Byte) (n : Nat) (hn : n < 8) :
    let after := Bus.pulses mode { b with txShift := tx, bitCount := 8 } ((wireBits answer).take (n + 1))
    after.mosi = tx.getLsbD (7 - n) ∧ after.miso = answer.getLsbD (7 - n) ∧ after.bitCount = 7 - n ∧
      after.sclk = idleLevel mode := by
  rw [wireBits_take_succ answer n hn, pulses_concat, Bus.pulse_eq, pulses_txShift, pulses_bitCount,
    wireBits_take_length answer n hn, msb_shiftLeft_byte tx n hn]
  exact ⟨rfl, rfl, Nat.sub_right_comm 8 n 1, rfl⟩

theorem exchange_bitCount (tx answer : Byte) : (b.exchange mode tx answer).bitCount = 0 := pulses_bitCount mode _ _

end Pulses

/-- Settles O16: a byte's pulses go through the shift registers, and the four modes' idle levels and edges are R86's. -/
theorem bytesGoMostSignificantBitFirst : Obligations.BytesGoMostSignificantBitFirst := by
  intro mode b tx answer
  refine ⟨pulses_wireBits mode b tx answer, Bus.exchange_rxShift mode b tx answer, exchange_bitCount mode b tx answer,
    ?_, ?_, fun _ => rfl⟩
  · cases mode <;> rfl
  · intro high level
    cases mode <;> cases high <;> rfl

end Sys2Proof.Proofs
end

section
/-! PROOFS. Decoder and encoder are inverse to each other (R60 to R65, R68 to R73), and what the decoder refuses (R77). -/

namespace Sys2Proof.Proofs

open Sys2Proof.Machine Sys2Proof.Safety

/-! ## Decoding what was encoded -/

theorem encode_of_isUop {i : Instr} (uop : isUop i = true) : encode i = .uop (uword i) := by
  unfold isUop at uop
  unfold uword
  split at uop
  next w word => rw [word]
  all_goals cases uop

/-- A 7-bit address stands in a byte with bit 7 clear (R62). -/
theorem setWidth_address : ∀ reg : BitVec 7,
    (reg.setWidth 8).msb = false ∧ (reg.setWidth 8).extractLsb' 0 7 = reg := by decide

/-- Under the write marker bit 7 is set (R61, R64). -/
theorem marked_address : ∀ reg : BitVec 7,
    (reg.setWidth 8 ||| 0x80#8).msb = true ∧ (reg.setWidth 8 ||| 0x80#8).extractLsb' 0 7 = reg := by decide

/-- Settles O1: micro-op words, command words and frames in turn. -/
theorem decodeInvertsEncode : Obligations.DecodeInvertsEncode := by
  intro i wellFormed
  cases i with
  | wFrame reg val =>
    obtain ⟨marked, address⟩ := marked_address reg
    simp [encode, decode, wFrameBytes, decodeFrame, marked, address]
  | rFrame reg =>
    obtain ⟨unmarked, address⟩ := setWidth_address reg
    simp [encode, decode, rFrameBytes, decodeFrame, unmarked, address]
  | bFrame => rfl
  | init | getId | setRotation | setOrientation | getMotion | getMotionSlow =>
    simp [encode, decode, decodeCmd, cmdWord_op, cmdWord_arg]
  | _ =>
    rw [encode_of_isUop rfl]
    exact decodeUop_uword _ ⟨wellFormed, rfl⟩

/-! ## Encoding what was decoded -/

section Word
variable {w : UWord} {op x : BitVec 4}

theorem ofFields_eq (hop : w.op = op) (hx : w.x = x) {a b : Byte} (ha : w.a = a) (hb : w.b = b) :
    UWord.ofFields op x a b = w := by
  rw [← hop, ← hx, ← ha, ← hb, UWord.ofFields_fields]

theorem ofImm_eq (hop : w.op = op) (hx : w.x = x) {imm : BitVec 16} (himm : w.ab = imm) : UWord.ofImm op x imm = w := by
  rw [← hop, ← hx, ← himm, UWord.ofImm_fields]

theorem decodeBare_encodes {i j : Instr} (code : encode i = .uop (UWord.ofImm op 0 0)) (hop : w.op = op)
    (h : decodeBare w i = .ok j) : encode j = .uop w := by
  unfold decodeBare at h
  split at h <;> cases h
  next zero => rw [code, ofImm_eq hop zero.1 zero.2]

theorem decodeBranch_encodes {i : Instr} (hop : w.op = 0x6) (h : decodeBranch w.x w.ab = .ok i) : encode i = .uop w := by
  unfold decodeBranch at h
  split at h <;> cases h
  all_goals exact congrArg Code.uop (ofImm_eq hop ‹_› rfl)

theorem decodeWr_encodes {i : Instr} (hop : w.op = 0x0) (h : decodeWr w = .ok i) : encode i = .uop w := by
  unfold decodeWr at h
  split_ifs at h with hx
  cases h
  exact congrArg Code.uop (ofFields_eq hop (not_not.mp hx) rfl rfl)

theorem decodeRd_encodes {i : Instr} (hop : w.op = 0x2) (h : decodeRd w = .ok i) : encode i = .uop w := by
  unfold decodeRd at h
  split_ifs at h with hb
  split at h <;> cases h
  next dst selects =>
    exact congrArg Code.uop (ofFields_eq hop (Dst.code_ofCode _ dst selects).symm rfl (not_not.mp hb))

theorem decodeBurst_encodes {i : Instr} (hop : w.op = 0x3) (h : decodeBurst w = .ok i) : encode i = .uop w := by
  unfold decodeBurst at h
  split_ifs at h with hx hb
  cases h
  exact congrArg Code.uop (ofFields_eq hop (not_not.mp hx) rfl (not_not.mp hb))

theorem decodeWrr_encodes {i : Instr} (hop : w.op = 0x9) (h : decodeWrr w = .ok i) : encode i = .uop w := by
  unfold decodeWrr at h
  split_ifs at h with hb
  split at h <;> cases h
  next src selects =>
    exact congrArg Code.uop (ofFields_eq hop (Src.code_ofCode _ src selects).symm rfl (not_not.mp hb))

theorem decodeEnd_encodes {i : Instr} (hop : w.op = 0xD) (h : decodeEnd w = .ok i) : encode i = .uop w := by
  unfold decodeEnd at h
  split at h <;> cases h
  next status result next hstatus hresult hnext =>
    exact congrArg Code.uop (ofFields_eq hop (NextSel.code_ofCode _ next hnext).symm
      (Status.code_ofField _ status hstatus).2.symm (ResultSel.code_ofField _ result hresult).symm)

theorem decodeUop_encodes {i : Instr} (h : decodeUop w = .ok i) : encode i = .uop w := by
  unfold decodeUop at h
  split at h
  next hop => exact decodeWr_encodes hop h
  next hop =>
    split at h <;> cases h
    next hx => exact congrArg Code.uop (ofImm_eq hop hx rfl)
  next hop => exact decodeRd_encodes hop h
  next hop => exact decodeBurst_encodes hop h
  next hop => exact decodeBare_encodes rfl hop h
  next hop => exact decodeBare_encodes rfl hop h
  next hop => exact decodeBranch_encodes hop h
  next hop => exact decodeBare_encodes rfl hop h
  next hop => exact decodeBare_encodes rfl hop h
  next hop => exact decodeWrr_encodes hop h
  next hop => exact decodeBare_encodes rfl hop h
  next hop => exact decodeBare_encodes rfl hop h
  next hop => exact decodeBare_encodes rfl hop h
  next hop => exact decodeEnd_encodes hop h
  next => cases h

end Word

theorem decodeCmd_encodes {w : BitVec 35} {i : Instr} (h : decodeCmd w = .ok i) :
    i.wellFormed = true ∧ encode i = .cmd w := by
  have word (op : BitVec 3) (hop : w.extractLsb' 32 3 = op) : cmdWord op (w.extractLsb' 0 32) = w := by
    rw [← hop, cmdWord_fields]
  unfold decodeCmd at h
  split at h <;> cases h
  all_goals exact ⟨rfl, congrArg Code.cmd (word _ ‹_›)⟩

/-- A byte is its write marker and its 7-bit address. -/
theorem byte_of_address : ∀ b : Byte,
    (b.msb = true → (b.extractLsb' 0 7).setWidth 8 ||| 0x80 = b) ∧ (b.msb = false → (b.extractLsb' 0 7).setWidth 8 = b) := by
  decide

theorem decodeFrame_encodes {bytes : List Byte} {i : Instr} (h : decodeFrame bytes = .ok i) :
    i.wellFormed = true ∧ encode i = .frame bytes := by
  unfold decodeFrame at h
  split at h
  next b0 b1 =>
    obtain ⟨marked, unmarked⟩ := byte_of_address b0
    split_ifs at h with msb zero <;> cases h
    · exact ⟨rfl, by rw [encode, wFrameBytes, marked msb]⟩
    · exact ⟨rfl, by rw [encode, rFrameBytes, unmarked (Bool.eq_false_of_not_eq_true msb), zero]⟩
  next =>
    split_ifs at h with burst
    cases h
    exact ⟨rfl, congrArg Code.frame burst.symm⟩

/-- Settles O2. -/
theorem encodeInvertsDecode : Obligations.EncodeInvertsDecode := by
  intro c i h
  cases c with
  | uop w => exact ⟨(decodeUop_legal h).1, decodeUop_encodes h⟩
  | cmd w => exact decodeCmd_encodes h
  | frame bytes => exact decodeFrame_encodes h

/-! ## What the decoder refuses -/

theorem exists_error_iff {α : Type} (r : Except Reject α) : (∃ e, r = .error e) ↔ r.isOk = false := by
  cases r with
  | ok => exact ⟨nofun, nofun⟩
  | error e => exact ⟨fun _ => rfl, fun _ => ⟨e, rfl⟩⟩

theorem dstCode_refused : ∀ x : BitVec 4, (Dst.ofCode x).isOk = false ↔ x ∈ [5#4, 6#4, 7#4, 13#4, 14#4, 15#4] := by decide

theorem srcCode_refused : ∀ x : BitVec 4, (Src.ofCode x).isOk = false ↔ x ∉ [1#4, 2#4, 5#4] := by decide

theorem nextCode_refused : ∀ x : BitVec 4, (NextSel.ofCode x).isOk = false ↔ 2 < x.toNat := by decide

theorem statusField_refused : ∀ a : Byte, (Status.ofField a).isOk = false ↔ 3 < a.toNat := by decide

theorem resultField_refused : ∀ b : Byte, (ResultSel.ofField b).isOk = false ↔ 3 < b.toNat := by decide

/-- A test that refuses, then the rest of the decoder. -/
theorem guard_refused {α : Type} (p : Prop) [Decidable p] (e : Reject) (r : Except Reject α) :
    (if p then .error e else r).isOk = false ↔ p ∨ r.isOk = false := by
  by_cases h : p
  · rw [if_pos h]; exact ⟨fun _ => .inl h, fun _ => rfl⟩
  · rw [if_neg h]; exact ⟨.inr, fun refused => refused.resolve_left h⟩

/-- A test that accepts, and refuses otherwise. -/
theorem required_refused (p : Prop) [Decidable p] (e : Reject) (i : Instr) :
    (if p then .ok i else .error e : Except Reject Instr).isOk = false ↔ ¬p := by
  rw [← ite_not, guard_refused]
  exact or_iff_left nofun

section Word
variable (w : UWord)

theorem ab_eq_zero : w.ab = 0 ↔ w.a = 0 ∧ w.b = 0 := by
  simp only [← BitVec.toNat_inj, UWord.toNat_ab, UWord.toNat_a, UWord.toNat_b, BitVec.ofNat_eq_ofNat, BitVec.toNat_ofNat]
  omega

theorem decodeBare_refused (i : Instr) : (decodeBare w i).isOk = false ↔ w.x ≠ 0 ∨ w.a ≠ 0 ∨ w.b ≠ 0 := by
  rw [decodeBare, required_refused, not_and_or, ab_eq_zero, not_and_or]

theorem decodeBranch_refused (cond : BitVec 4) (target : UAddr) :
    (decodeBranch cond target).isOk = false ↔ 8 ≤ cond.toNat := by
  have noTarget : (decodeBranch cond target).isOk = (decodeBranch cond 0).isOk := by
    unfold decodeBranch
    split <;> simp_all [Except.isOk, Except.toBool]
  rw [noTarget]
  clear noTarget
  revert cond
  decide

theorem decodeWr_refused : (decodeWr w).isOk = false ↔ w.x ≠ 0 ∨ w.a.msb = true := by
  rw [decodeWr, guard_refused, guard_refused]
  simp [Except.isOk, Except.toBool]

theorem decodeRd_refused :
    (decodeRd w).isOk = false ↔ w.b ≠ 0 ∨ w.a.msb = true ∨ w.x ∈ [5#4, 6#4, 7#4, 13#4, 14#4, 15#4] := by
  rw [decodeRd, guard_refused, guard_refused, ← dstCode_refused]
  cases Dst.ofCode w.x <;> rfl

theorem decodeBurst_refused : (decodeBurst w).isOk = false ↔ w.x ≠ 0 ∨ w.b ≠ 0x0C ∨ w.a.msb = true := by
  rw [decodeBurst, guard_refused, guard_refused, guard_refused]
  simp [Except.isOk, Except.toBool]

theorem decodeWrr_refused : (decodeWrr w).isOk = false ↔ w.b ≠ 0 ∨ w.a.msb = true ∨ w.x ∉ [1#4, 2#4, 5#4] := by
  rw [decodeWrr, guard_refused, guard_refused, ← srcCode_refused]
  cases Src.ofCode w.x <;> rfl

theorem decodeEnd_refused : (decodeEnd w).isOk = false ↔ 3 < w.a.toNat ∨ 3 < w.b.toNat ∨ 2 < w.x.toNat := by
  rw [decodeEnd, ← statusField_refused, ← resultField_refused, ← nextCode_refused]
  cases Status.ofField w.a <;> cases ResultSel.ofField w.b <;> cases NextSel.ofCode w.x <;> simp [Except.isOk, Except.toBool]

theorem decodeUop_refused : (decodeUop w).isOk = false ↔ IllegalWord w := by
  unfold decodeUop
  split
  next op => simp [decodeWr_refused, IllegalWord, op]
  next op => simp [required_refused, IllegalWord, op]
  next op => simp [decodeRd_refused, IllegalWord, op]
  next op => simp [decodeBurst_refused, IllegalWord, op, or_comm]
  next op => simp [decodeBare_refused, IllegalWord, op]
  next op => simp [decodeBare_refused, IllegalWord, op]
  next op => simp [decodeBranch_refused, IllegalWord, op]
  next op => simp [decodeBare_refused, IllegalWord, op]
  next op => simp [decodeBare_refused, IllegalWord, op]
  next op => simp [decodeWrr_refused, IllegalWord, op]
  next op => simp [decodeBare_refused, IllegalWord, op]
  next op => simp [decodeBare_refused, IllegalWord, op]
  next op => simp [decodeBare_refused, IllegalWord, op]
  next op => simp [decodeEnd_refused, IllegalWord, op]
  next =>
    have reserved : w.op = 0xE ∨ w.op = 0xF := by
      have fourteen : ∀ op : BitVec 4, op ∉ [0x0#4, 0x1#4, 0x2#4, 0x3#4, 0x4#4, 0x5#4, 0x6#4, 0x7#4, 0x8#4, 0x9#4, 0xA#4,
        0xB#4, 0xC#4, 0xD#4] → op = 0xE ∨ op = 0xF := by decide
      exact fourteen w.op (by simp_all)
    exact iff_of_true rfl (reserved.imp_right .inl)

end Word

theorem decodeCmd_refused (op : BitVec 3) (arg : Word) : (decodeCmd (cmdWord op arg)).isOk = false ↔ op = 6 ∨ op = 7 := by
  obtain ⟨n, hn⟩ := op
  interval_cases n <;> simp [decodeCmd, cmdWord_op, Except.isOk, Except.toBool]

/-- Settles O3. -/
theorem decoderRefusesExactlyTheIllegalWords : Obligations.DecoderRefusesExactlyTheIllegalWords :=
  ⟨fun w => (exists_error_iff _).trans (decodeUop_refused w),
    fun op arg => (exists_error_iff _).trans (decodeCmd_refused op arg)⟩

end Sys2Proof.Proofs
end

section
/-! PROOFS. Printed words, read back (R61 to R63, R65, R69 to R72). -/

namespace Sys2Proof.Proofs

/-- Settles O4: closed words, each decoded by evaluation. -/
theorem printedWordsDecode : Obligations.PrintedWordsDecode := by
  unfold Obligations.PrintedWordsDecode
  decide

end Sys2Proof.Proofs
end

section
/-! PROOFS. The assembler (R77, R78, R93, R120). -/

namespace Sys2Proof.Proofs

open Sys2Proof.Machine

/-! ## `RDN` -/

theorem rdn_some_iff (reg : Nat) (ds : List Dst) (prog : List Instr) :
    rdn reg ds = some prog ↔ (reg ≤ 0x7F ∧ reg + ds.length ≤ 0x80) ∧ rdFrom (BitVec.ofNat 8 reg) ds = prog := by
  rw [rdn, Option.ite_none_right_eq_some, Option.some.injEq]

theorem rdn_none_iff (reg : Nat) (ds : List Dst) : rdn reg ds = none ↔ 0x7F < reg ∨ 0x7F < reg + ds.length - 1 := by
  unfold rdn
  split_ifs with inside
  · exact ⟨nofun, by omega⟩
  · exact ⟨fun _ => by omega, fun _ => rfl⟩

theorem rdFrom_length (reg : Byte) (ds : List Dst) : (rdFrom reg ds).length = ds.length := by
  induction ds generalizing reg with
  | nil => rfl
  | cons d ds ih => rw [rdFrom, List.length_cons, ih, List.length_cons]

/-- The registers are read in increasing address order (R93). -/
theorem rdFrom_getElem? (reg k : Nat) (ds : List Dst) :
    (rdFrom (BitVec.ofNat 8 reg) ds)[k]? = ds[k]?.map (.rd (BitVec.ofNat 8 (reg + k))) := by
  induction ds generalizing reg k with
  | nil => rfl
  | cons d ds ih =>
    have next : BitVec.ofNat 8 reg + 1 = BitVec.ofNat 8 (reg + 1) := (BitVec.ofNat_add reg 1).symm
    rw [rdFrom, next]
    cases k with
    | zero => rfl
    | succ k => rw [List.getElem?_cons_succ, ih, Nat.add_assoc, Nat.add_comm 1 k]; rfl

/-! ## Programs -/

theorem legalUop_iff (i : Instr) : LegalUop i ↔ (i.wellFormed && isUop i) = true := (Bool.and_eq_true_iff).symm

theorem not_isUop_iff (i : Instr) : isUop i = false ↔ ∀ w, encode i ≠ .uop w := by
  unfold isUop
  cases encode i with
  | uop w => exact ⟨nofun, fun none => absurd rfl (none w)⟩
  | cmd | frame => exact ⟨nofun, fun _ => rfl⟩

theorem assemble_some_iff (prog : List Instr) (ws : List UWord) :
    assemble prog = some ws ↔ (∀ i ∈ prog, LegalUop i) ∧ prog.map uword = ws := by
  rw [assemble, Option.ite_none_right_eq_some, Option.some.injEq, List.all_eq_true]
  simp only [legalUop_iff]

theorem assemble_none_iff (prog : List Instr) :
    assemble prog = none ↔ ∃ i ∈ prog, i.wellFormed = false ∨ ∀ w, encode i ≠ .uop w := by
  rw [assemble, ite_eq_right_iff]
  simp [← not_isUop_iff, imp_iff_not_or]

theorem not_regOk_of_high {reg : Byte} (high : 0x7F < reg.toNat) : regOk reg = false := by
  simp [regOk, BitVec.msb_eq_decide]
  omega

theorem assemble_highRegister (prog : List Instr) (reg : Byte) (high : 0x7F < reg.toNat)
    (line : (∃ val, .wr reg val ∈ prog) ∨ (∃ dst, .rd reg dst ∈ prog) ∨ .burst reg ∈ prog ∨ (∃ src, .wrr reg src ∈ prog)) :
    assemble prog = none := by
  have refused := not_regOk_of_high high
  rw [assemble_none_iff]
  rcases line with ⟨_, mem⟩ | ⟨_, mem⟩ | mem | ⟨_, mem⟩
  all_goals exact ⟨_, mem, .inl refused⟩

/-- Every line of the reference program is a legal micro-op, for a calibration table that meets R120. -/
theorem refProgram_legal {tab : CalTab} (valid : CalTab.valid tab = true) : ∀ i ∈ refProgram tab, LegalUop i := by
  intro i mem
  obtain ⟨k, inside, rfl⟩ := List.getElem_of_mem mem
  obtain ⟨i, at_k, checked⟩ := refProgram_checked valid k (by rwa [refProgram_length] at inside)
  rw [List.getElem?_eq_getElem inside, Option.some.injEq] at at_k
  exact at_k ▸ checked.legal

/-- Settles O5. -/
theorem assemblerExpandsAndRefuses : Obligations.AssemblerExpandsAndRefuses := by
  refine ⟨rdn_none_iff, fun reg ds prog h => ?_, assemble_none_iff, assemble_highRegister, fun prog ws h => ?_,
    fun tab valid => (assemble_some_iff _ _).mpr ⟨refProgram_legal valid, rfl⟩⟩
  · obtain ⟨-, rfl⟩ := (rdn_some_iff reg ds prog).mp h
    exact ⟨rdFrom_length _ ds, fun k d at_k => by rw [rdFrom_getElem?, at_k]; rfl⟩
  · obtain ⟨legal, rfl⟩ := (assemble_some_iff prog ws).mp h
    refine ⟨List.length_map _, fun k i at_k => ⟨uword i, encode_of_isUop (legal i (List.mem_of_getElem? at_k)).2, ?_⟩⟩
    rw [List.getElem?_map, at_k]
    rfl

end Sys2Proof.Proofs
end

section
/-! PROOFS. The step on codes that are no instruction (R77, R111, R112). -/

namespace Sys2Proof.Proofs

open Sys2Proof.Machine Sys2Proof.Safety

section Live
variable (s : State) (live : resetNext s = false)
include live

theorem step_of_illegalCode (c : Code) (e : Reject) (work : pendingWork s = .code c) (illegal : decode c = .error e) :
    step s = illegalCode c (beginStep s) := by
  simp [step, nextWork_live s live, work, illegal]

theorem step_of_hole (work : pendingWork s = .hole) : step s = .fault .romHole := by
  simp [step, nextWork_live s live, work]

end Live

/-- Settles O9. -/
theorem stepOnIllegalCodes : Obligations.StepOnIllegalCodes := by
  intro s live
  refine ⟨fun w e noFrame busy read illegal => ?_, fun noFrame busy hole => ?_, fun bytes e slot illegal => ?_⟩
  · have work : pendingWork s = .code (.uop w) := by simp [pendingWork, noFrame, busy, read]
    rw [step_of_illegalCode s live _ e work illegal, ← uFault_eq]
    rfl
  · exact step_of_hole s live (by simp [pendingWork, noFrame, busy, hole])
  · have work : pendingWork s = .code (.frame bytes) := by simp [pendingWork, slot]
    exact step_of_illegalCode s live _ e work illegal

end Sys2Proof.Proofs
end

section
/-! PROOFS. The register access micro-ops and the wire frames (R61 to R64, R90 to R92, R95): what one transfer leaves. -/

namespace Sys2Proof.Proofs

open Sys2Proof.Machine Sys2Proof.Safety

/-! ## One transfer -/

/-- After a transfer begun with chip-select high that puts `f` of the bytes received into the registers and `move` of `UPC`
into `UPC`: one window, the chip's answers, and nothing else moved but the bus. -/
theorem transfer_window (s : State) (tx : List Byte) (f : List Byte → Regs → Regs) (move : UAddr → UAddr)
    (high : s.csN = true) :
    ∃ rx t, transfer s tx (fun rx u => (u.setRegs (f rx u.regs)).setUpc (move u.upc)) = t ∧ Answered s tx.length rx ∧
      Adds s t (window tx rx) ∧ OnlyBusMoved { s with upc := move s.upc, regs := f rx s.regs } t := by
  have moved := xfer_only_bus s tx high
  have upc : (xfer s tx).2.upc = s.upc := by rw [moved]
  have regs : (xfer s tx).2.regs = s.regs := by rw [moved]
  refine ⟨_, _, transfer_high s tx _ high, exchangeAll_answered s tx, xfer_trace s tx, ?_⟩
  rw [upc, regs]
  exact onlyBusMoved_update moved (move s.upc) (f (xfer s tx).1 s.regs)

theorem regOk_iff (reg : Byte) : regOk reg = true ↔ reg.msb = false := by simp [regOk]

/-- A micro-op's transfer at a legal address is made. -/
theorem guardedTransfer_runs {reg : Byte} (legal : reg.msb = false) (s u : State) : (if regOk reg then s else u) = s :=
  if_pos ((regOk_iff reg).mpr legal)

/-- At an illegal address, or begun with chip-select low, it takes `UFAULT` (R77, R81). -/
theorem guardedTransfer_faults {reg : Byte} {s : State} (fault : reg.msb = true ∨ s.csN = false) (tx : List Byte)
    (keep : List Byte → State → State) : (if regOk reg then transfer s tx keep else uFault s) = afterUFault s := by
  rw [← uFault_eq]
  rcases fault with marked | low
  · rw [if_neg (by simp [regOk, marked])]
  · rw [transfer_low s tx keep low, ite_self]

/-! ## What the bytes received become -/

/-- `FB` holds the thirteen bytes received, in order (R95). -/
theorem burstFrame_toList (rx : List Byte) (length : rx.length = 13) : (burstFrame rx).toList = rx := by
  match rx, length with
  | [_, _, _, _, _, _, _, _, _, _, _, _, _], _ => rfl

/-- `RD`'s effect on the registers, destination by destination (R92). -/
theorem afterRead_eq (r : Regs) (dst : Dst) (echo v : Byte) :
    r.afterRead dst [echo, v] = (match dst with
      | .discard => { r with rb := Cell.of v }
      | .c1 => { r with rb := Cell.of v, c1 := Cell.of v }
      | .c2 => { r with rb := Cell.of v, c2 := Cell.of v }
      | .pidr => { r with rb := Cell.of v, pidr := Cell.of v }
      | .revr => { r with rb := Cell.of v, revr := Cell.of v }
      | .pb k => { r with rb := Cell.of v, pb := r.pb.set k.val (Cell.of v) k.isLt }) := by
  cases dst <;> rfl

/-! ## The four micro-ops -/

/-- Settles O18. -/
theorem wrSendsOneWriteFrame : Obligations.WrSendsOneWriteFrame := by
  intro reg val s
  refine ⟨fun legal high => ?_, fun fault => congrArg Host.Outcome.next (guardedTransfer_faults fault _ _), rfl⟩
  obtain ⟨rx, t, sent, answered, adds, moved⟩ := transfer_window s (wFrameBytes reg val) (fun _ r => r) (· + 1) high
  exact ⟨rx, t, congrArg _ ((guardedTransfer_runs legal _ _).trans sent), answered, adds, moved⟩

theorem readSrc_val (r : Regs) (src : Src) :
    (r.readSrc src).val = (match src with | .c1 => r.c1.val | .c2 => r.c2.val | .om => r.om.val) := by
  cases src <;> rfl

/-- Settles O19. -/
theorem wrrSendsTheSelectedRegister : Obligations.WrrSendsTheSelectedRegister := by
  intro reg src s
  refine ⟨?_, fun fault => ?_, rfl⟩
  · intro legal high v
    obtain ⟨rx, t, sent, answered, adds, moved⟩ := transfer_window (s.noteRead (s.regs.readSrc src).written)
      (wFrameBytes reg (s.regs.readSrc src).val) (fun _ r => r) (· + 1) high
    have runs : (regOk reg && s.csN) = true := by rw [(regOk_iff reg).mpr legal, high]; rfl
    rw [readSrc_val] at adds
    exact ⟨rx, _, t, congrArg _ ((if_pos runs).trans sent), answered, adds, moved⟩
  · have refused : ¬(regOk reg && s.csN) = true := by
      rw [Bool.and_eq_true, regOk_iff]
      rintro ⟨legal, high⟩
      rcases fault with marked | low <;> simp_all
    exact congrArg _ ((if_neg refused).trans (uFault_eq s))

/-- Settles O20. -/
theorem rdKeepsTheSecondByte : Obligations.RdKeepsTheSecondByte := by
  intro reg dst s
  refine ⟨fun legal high => ?_, fun fault => congrArg Host.Outcome.next (guardedTransfer_faults fault _ _), rfl⟩
  obtain ⟨rx, t, sent, answered, adds, moved⟩ :=
    transfer_window s (rFrameBytes reg) (fun rx r => r.afterRead dst rx) (· + 1) high
  obtain ⟨echo, v, rfl⟩ := List.length_eq_two.mp answered.1
  refine ⟨echo, v, t, congrArg _ ((guardedTransfer_runs legal _ _).trans sent), answered, adds, ?_⟩
  rw [afterRead_eq] at moved
  exact moved

/-- Settles O21. -/
theorem burstFillsTheFrameBuffer : Obligations.BurstFillsTheFrameBuffer := by
  intro reg s
  refine ⟨fun legal high => ?_, fun fault => congrArg Host.Outcome.next (guardedTransfer_faults fault _ _), rfl⟩
  obtain ⟨rx, t, sent, answered, adds, moved⟩ :=
    transfer_window s (burstBytes reg) (fun rx r => r.setFb (burstFrame rx)) (· + 1) high
  refine ⟨burstFrame rx, t, congrArg _ ((guardedTransfer_runs legal _ _).trans sent), ?_⟩
  rw [burstFrame_toList rx answered.1]
  exact ⟨answered, adds, moved⟩

/-! ## The three frames -/

theorem wFrameAddress (reg : BitVec 7) : reg.setWidth 8 ||| 0x80 = 1#1 ++ reg := by
  revert reg; decide

theorem rFrameAddress (reg : BitVec 7) : reg.setWidth 8 = 0#1 ++ reg := by
  revert reg; decide

/-- Settles O22. -/
theorem wireFramesRun : Obligations.WireFramesRun := by
  intro s
  refine ⟨fun high => ⟨fun reg val => ?_, fun reg => ?_, ?_⟩, fun low reg val => ?_⟩
  · obtain ⟨rx, t, sent, answered, adds, moved⟩ :=
      transfer_window s (wFrameBytes (reg.setWidth 8) val) (fun _ r => r) id high
    rw [wFrameBytes, wFrameAddress] at adds
    exact ⟨rx, t, congrArg _ sent, answered, adds, moved⟩
  · obtain ⟨rx, t, sent, answered, adds, moved⟩ :=
      transfer_window s (rFrameBytes (reg.setWidth 8)) (fun rx r => r.setRb (rx.getD 1 0)) id high
    obtain ⟨echo, v, rfl⟩ := List.length_eq_two.mp answered.1
    rw [rFrameBytes, rFrameAddress] at adds
    exact ⟨echo, v, t, congrArg _ sent, answered, adds, moved⟩
  · obtain ⟨rx, t, sent, answered, adds, moved⟩ :=
      transfer_window s (burstBytes regBurst) (fun rx r => r.setFb (burstFrame rx)) id high
    refine ⟨burstFrame rx, t, congrArg _ sent, ?_⟩
    rw [burstFrame_toList rx answered.1]
    exact ⟨answered, adds, moved⟩
  · have faults (tx : List Byte) (keep : List Byte → State → State) :
        (.next (transfer s tx keep) : Result) = .next (afterUFault s) := by rw [transfer_low s tx keep low, uFault_eq]
    exact ⟨faults _ _, faults _ _, faults _ _⟩

end Sys2Proof.Proofs
end

section
/-! PROOFS. Which bytes a step sends (R60, R87, R192). -/

namespace Sys2Proof.Proofs

open Sys2Proof.Machine Sys2Proof.Safety

/-! ## The bytes of some events -/

theorem sentBytes_append (evs more : List Event) : sentBytes (evs ++ more) = sentBytes evs ++ sentBytes more := by
  induction evs with
  | nil => rfl
  | cons ev rest ih => cases ev <;> simp [sentBytes, ih]

theorem sentBytes_byteEvents (tx rx : List Byte) (length : rx.length = tx.length) : sentBytes (byteEvents tx rx) = tx := by
  induction tx generalizing rx with
  | nil => rfl
  | cons b rest ih =>
    cases rx with
    | nil => cases length
    | cons v vs => exact congrArg (b :: ·) (ih vs (Nat.succ.inj length))

/-- A window sends the bytes of its transfer. -/
theorem sentBytes_window (tx rx : List Byte) (length : rx.length = tx.length) : sentBytes (window tx rx) = tx := by
  rw [window, sentBytes, sentBytes_append, sentBytes_byteEvents tx rx length, sentBytes, sentBytes, List.append_nil]

/-! ## What each operation sends -/

/-- The events added send these bytes. -/
def Sends (s t : State) (tx : List Byte) : Prop := ∃ evs, Adds s t evs ∧ sentBytes evs = tx

theorem sends_xfer (s : State) (tx : List Byte) : Sends s (xfer s tx).2 tx :=
  ⟨_, xfer_trace s tx, sentBytes_window tx _ (xfer_length s tx)⟩

theorem OnlyCoreMoved.trace_eq {s t : State} (h : OnlyCoreMoved s t) : t.trace = s.trace := by rw [h]

theorem uFault_sends (s : State) : Sends s (uFault s) [] := by
  rw [uFault_eq]
  refine ⟨_, ⟨_, rfl, rfl⟩, ?_⟩
  cases s.csN <;> rfl

theorem dispatch_sends (op : BitVec 3) (arg : Word) (s : State) : Sends s (dispatch op arg s) [] := by
  cases busy : s.busy with
  | true => rw [dispatch_busy op arg s busy]; exact ⟨[], adds_nil rfl, rfl⟩
  | false =>
    obtain ⟨-, h⟩ | ⟨-, -, h⟩ | ⟨-, -, h⟩ := dispatch_cases op arg s busy <;> rw [h]
    · exact ⟨_, ⟨_, List.append_assoc .., rfl⟩, rfl⟩
    · exact ⟨_, ⟨_, List.append_assoc .., rfl⟩, rfl⟩
    · exact ⟨_, ⟨_, rfl, rfl⟩, rfl⟩

/-- An instruction sends nothing, or the bytes of its transfer. -/
theorem ExecEffect.sends {i : Instr} {s t : State} (h : ExecEffect i s t) :
    Sends s t [] ∨ ∃ tx, busBytes i s = some tx ∧ Sends s t tx := by
  cases h with
  | core moved => exact .inl ⟨[], adds_nil moved.trace_eq, rfl⟩
  | ufault written => exact .inl (uFault_sends (s.noteRead written))
  | select | release | ended => exact .inl ⟨_, ⟨_, rfl, rfl⟩, rfl⟩
  | sent tx bytes high moved =>
    obtain ⟨evs, adds, sent⟩ := sends_xfer (s.noteRead (busWritten i s)) tx
    refine .inr ⟨tx, bytes, evs ++ [], adds_trans adds (adds_nil moved.trace_eq), by rw [List.append_nil, sent]⟩
  | dispatched op arg => exact .inl (dispatch_sends op arg s)

/-! ## The micro-ops of the reference program -/

/-- The one `BURST` of the reference program reads at `REG_BURST` (R154). -/
theorem burst_mem_refProgram {tab : CalTab} {reg : Byte} (mem : .burst reg ∈ refProgram tab) : reg = regBurst := by
  simpa [refProgram, progFixed, progGetId, progSetOrientation, progSetRotation, progGetMotion, progGetMotionSlow,
    progInitHead, progCalibration, progBranch1, progBranch2, progTail, progIdentity, pulse, rdFrom, wrStar] using mem

/-- A frame of R60, of which the only burst is the one at `REG_BURST`. -/
theorem legalFrame_of_busBytes {i : Instr} {s : State} {tx : List Byte} (bytes : busBytes i s = some tx)
    (burstAt : ∀ reg, i = .burst reg → reg = regBurst) : LegalFrame tx := by
  have checked {reg : Byte} {sent : List Byte} (bytes : (if regOk reg then some sent else none) = some tx) :
      reg.msb = false ∧ sent = tx := by
    obtain ⟨legal, sent⟩ := Option.ite_none_right_eq_some.mp bytes
    exact ⟨(regOk_iff reg).mp legal, Option.some.inj sent⟩
  cases i with
  | wr reg | wrr reg =>
    obtain ⟨legal, rfl⟩ := checked bytes
    exact .inl ⟨reg, _, legal, rfl⟩
  | rd reg =>
    obtain ⟨legal, rfl⟩ := checked bytes
    exact .inr (.inl ⟨reg, legal, rfl⟩)
  | burst reg =>
    obtain ⟨-, rfl⟩ := checked bytes
    exact .inr (.inr (congrArg burstBytes (burstAt reg rfl)))
  | wFrame reg =>
    obtain rfl := Option.some.inj bytes
    exact .inl ⟨reg.setWidth 8, _, (setWidth_address reg).1, rfl⟩
  | rFrame reg =>
    obtain rfl := Option.some.inj bytes
    exact .inr (.inl ⟨reg.setWidth 8, (setWidth_address reg).1, rfl⟩)
  | bFrame =>
    obtain rfl := Option.some.inj bytes
    exact .inr (.inr rfl)
  | _ => cases bytes

/-- The instruction at an index of the reference program sends a frame of R60. -/
theorem legalFrame_of_refProgram {tab : CalTab} {k : Nat} {i : Instr} {s : State} {tx : List Byte}
    (at_k : (refProgram tab)[k]? = some i) (bytes : busBytes i s = some tx) : LegalFrame tx :=
  legalFrame_of_busBytes bytes fun _ burst => burst_mem_refProgram (burst ▸ List.mem_of_getElem? at_k)

/-! ## The step -/

section Reference
variable {tab : CalTab} {s : State} (valid : CalTab.valid tab = true) (ref : Reference tab s)
include valid ref

theorem pendingTransfer_legal {tx : List Byte} (bytes : pendingTransfer s = some tx) : LegalFrame tx := by
  cases busy : s.busy with
  | false => rw [pendingTransfer_idle s ref.noFrame busy] at bytes; cases bytes
  | true =>
    obtain ⟨i, at_k, -, read, decoded⟩ := fetched valid ref busy
    rw [pendingTransfer_word s _ i ref.noFrame busy (pendingTransfer_high s tx bytes) read decoded] at bytes
    exact legalFrame_of_refProgram at_k bytes

theorem step_sends {t : State} (live : resetNext s = false) (h : step s = .next t) :
    ∃ tx, Sends s t tx ∧ (tx = [] ∨ LegalFrame tx) := by
  cases step_live s t live h with
  | quiet => exact ⟨[], ⟨[], adds_nil rfl, rfl⟩, .inl rfl⟩
  | frame bytes tx keep slot => rw [ref.noFrame] at slot; cases slot
  | command op arg => exact ⟨[], dispatch_sends op arg (beginStep s), .inl rfl⟩
  | word w i busy read decoded meaning =>
    obtain ⟨j, at_k, -, read', decoded'⟩ := fetched valid ref busy
    obtain rfl := Option.some.inj (read.symm.trans read')
    obtain rfl := Except.ok.inj (decoded.symm.trans decoded')
    rcases (exec_effect i _ t meaning).sends with none | ⟨tx, bytes, sent⟩
    · exact ⟨[], none, .inl rfl⟩
    · exact ⟨tx, sent, .inr (legalFrame_of_refProgram at_k bytes)⟩
  | illegal => exact ⟨[], uFault_sends (beginStep s), .inl rfl⟩

theorem resetStep_sends (cut : Option Nat) : ∃ sent tx, Sends s (resetStep cut s) sent ∧ LegalFrame tx ∧ sent <+: tx := by
  rcases reset_cases cut s with between | ⟨n, tx, rfl, bytes⟩
  · refine ⟨[], burstBytes 0x16, ⟨_, (resetStep_between_adds s cut between).2, ?_⟩, .inr (.inr rfl), List.nil_prefix⟩
    cases s.csN <;> rfl
  · obtain ⟨-, ⟨rx, answered, adds⟩, -⟩ := resetStep_inside_adds s tx n bytes
    exact ⟨tx.take n, tx, ⟨_, adds, sentBytes_window _ rx (answered.1.trans List.length_take.symm)⟩,
      pendingTransfer_legal valid ref bytes, List.take_prefix n tx⟩

end Reference

/-- Settles O56: a step without reset makes at most the one transfer of its micro-op, and a reset cuts that short. -/
theorem onlyLegalFramesAreSent : Obligations.OnlyLegalFramesAreSent := by
  intro tab s t valid ref h
  cases live : resetNext s with
  | false =>
    obtain ⟨tx, ⟨evs, adds, rfl⟩, legal⟩ := step_sends valid ref live h
    exact ⟨evs, adds, fun _ => legal, nofun⟩
  | true =>
    obtain ⟨cut, reset⟩ := step_reset s live
    obtain rfl := Host.Outcome.next.inj (reset.symm.trans h)
    obtain ⟨_, tx, ⟨evs, adds, rfl⟩, legal, cutShort⟩ := resetStep_sends valid ref cut
    exact ⟨evs, adds, nofun, fun _ => ⟨tx, legal, cutShort⟩⟩

end Sys2Proof.Proofs
end

section
/-! PROOFS. The orientation masks (R140, R141). -/

namespace Sys2Proof.Proofs

open Sys2Proof.Machine Sys2Proof.Safety

/-- Bits 2, 1, 0 of `ARG` are bits 7, 6, 5 of the mask (R76). -/
theorem flagMask_flag (arg : Word) (k : Nat) (flag : k < 3) : (flagMask arg).getLsbD (k + 5) = arg.getLsbD k := by
  have appended : (flagMask arg).getLsbD (k + 5) = _ := BitVec.getLsbD_append
  simpa [flag] using appended

theorem flagMask_low (arg : Word) : (flagMask arg).toNat % 32 = 0 := by
  have value : (flagMask arg).toNat = (arg.extractLsb' 0 3).toNat * 2 ^ 5 + 0 := toNat_append_add _ 0
  omega

/-- Settles O29. -/
theorem omflgBuildsTheMask : Obligations.OmflgBuildsTheMask := by
  intro s
  have flag := flagMask_flag s.regs.arg.val
  exact ⟨flagMask s.regs.arg.val, flag 2 (by decide), flag 1 (by decide), flag 0 (by decide), flagMask_low _, ⟨_, rfl⟩, rfl⟩

theorem execOmrot_masked {s : State} {mask : Byte} (row : rotationMask s.regs.arg.val = some mask) :
    ∃ mark, exec .omrot s = .next { s with
      regs := { s.regs with om := Cell.of mask }, upc := s.upc + 1, undefRead := mark } := by
  refine ⟨s.undefRead || !s.regs.arg.written, ?_⟩
  show execOmrot s = _
  rw [execOmrot, row]
  rfl

theorem execOmrot_faults {s : State} (noRow : rotationMask s.regs.arg.val = none) :
    ∃ mark, exec .omrot s = .next (afterUFault { s with undefRead := mark }) := by
  refine ⟨s.undefRead || !s.regs.arg.written, ?_⟩
  show execOmrot s = _
  rw [execOmrot, noRow, ← uFault_eq]
  rfl

theorem rotationMask_outside {arg : Word} (outside : arg.toNat ∉ [0, 90, 180, 270]) : rotationMask arg = none := by
  have row (v : Word) (mem : v.toNat ∈ [0, 90, 180, 270]) : arg ≠ v := fun equal => outside (equal ▸ mem)
  rw [rotationMask, if_neg (row 0 (by decide)), if_neg (row 90 (by decide)), if_neg (row 180 (by decide)),
    if_neg (row 270 (by decide))]

/-- Settles O30. -/
theorem omrotFollowsTheTable : Obligations.OmrotFollowsTheTable := by
  intro s writes
  have masked {degrees : Word} {mask : Byte} (row : rotationMask degrees = some mask) (arg : s.regs.arg.val = degrees) :
      writes mask := execOmrot_masked (arg ▸ row)
  exact ⟨masked rfl, masked rfl, masked rfl, masked rfl, fun outside => execOmrot_faults (rotationMask_outside outside),
    rfl, rfl, rfl, rfl, rfl⟩

end Sys2Proof.Proofs
end

section
/-! PROOFS. Chip-select over a transfer and over the micro-ops that move it alone (R80, R84, R85). -/

namespace Sys2Proof.Proofs

open Sys2Proof.Machine Sys2Proof.Safety

/-- `CSH` comes last in a transfer, whatever the level it was begun at. -/
theorem xfer_releases (s : State) (tx : List Byte) : (xfer s tx).2.csN = true := by
  rw [xfer_eq, State.releaseChip_csN]

/-- Settles O14. -/
theorem xferIsOneWindow : Obligations.XferIsOneWindow := fun s tx high =>
  ⟨xfer_trace s tx, xfer_length s tx, xfer_releases s tx, xfer_only_bus s tx high⟩

section Level
variable (s : State)

theorem execCslo_high (high : s.csN = true) : execCslo s = .next s.selectChip.advance :=
  congrArg _ (if_pos high)

theorem execCslo_low (low : s.csN = false) : execCslo s = .next (afterUFault s) :=
  congrArg _ ((if_neg (ne_true_of_eq_false low)).trans (uFault_eq s))

theorem execCshi_low (low : s.csN = false) : execCshi s = .next s.releaseChip.advance :=
  congrArg _ (if_neg (ne_true_of_eq_false low))

theorem execCshi_high (high : s.csN = true) : execCshi s = .next (afterUFault s) :=
  congrArg _ ((if_pos high).trans (uFault_eq s))

end Level

/-- Settles O17: each micro-op moves chip-select from the one level and faults at the other. -/
theorem csloAndCshiMoveChipSelect : Obligations.CsloAndCshiMoveChipSelect := fun s =>
  ⟨execCslo_high s, execCslo_low s, execCshi_low s, execCshi_high s, rfl, rfl⟩

end Sys2Proof.Proofs
end

section
/-! PROOFS. Dispatch in full: the gate, the entry points and the two refusals (R100, R112). -/

namespace Sys2Proof.Proofs

open Sys2Proof.Machine Sys2Proof.Safety

theorem entry_eq (op : BitVec 3) (known : ¬(op = 6 ∨ op = 7)) :
    entry op = if op = 1 then 0x0000 else if op = 3 then 0x0001 else if op = 2 then 0x0004
      else if op = 4 then 0x0009 else if op = 5 then 0x0011 else 0x001D := by
  revert op; decide

/-- A command refused at once: `CMD` and `RSP` in one step, no register but the response's changed. -/
theorem respond_emit_idle (s : State) (ev : Event) (status : Status) (data : Word) (idle : s.busy = false) :
    (s.emit ev).respond status data = { s with
      rspStatus := status.code, rspData := data, rspValid := true, held := false,
      trace := s.trace ++ [{ ev := ev, time := s.env.now }, { ev := .rsp status.code data, time := s.env.now }] } := by
  simp only [State.respond, State.emit, List.append_assoc, List.cons_append, List.nil_append, ← idle]

/-- Settles O10: the test order of R100 is the model's own, so each branch is compared with its own clause. -/
theorem dispatchGatesCommands : Obligations.DispatchGatesCommands := by
  refine ⟨fun op arg s idle => ?_, fun arg s => ⟨rfl, rfl, rfl, rfl, rfl, rfl⟩,
    fun op arg rest s idle noFrame host => step_command s op arg rest noFrame idle host⟩
  rw [dispatch_idle op arg s idle]
  refine ite_congr rfl (fun _ => respond_emit_idle s _ _ _ idle) fun known => ?_
  refine ite_congr rfl (fun _ => respond_emit_idle s _ _ _ idle) fun _ => ?_
  refine ite_congr rfl (fun _ => respond_emit_idle s _ _ _ idle) fun _ => ?_
  rw [entry_eq op known]
  rfl

/-- Settles O11: the third case of the dispatch, code by code. -/
theorem commandsStartTheirPrograms : Obligations.CommandsStartTheirPrograms := by
  intro arg s idle started
  have starts (op : BitVec 3) (known : ¬(op = 6 ∨ op = 7))
      (allowed : op = 0 ∧ s.life = .uninit ∨ op ≠ 0 ∧ s.life = .ready) :
      (.next (dispatch op arg s) : Result) = .next (started op (entry op)) :=
    congrArg _ (dispatch_runs op arg s idle known allowed)
  have inReady (op : BitVec 3) (known : ¬(op = 6 ∨ op = 7)) (other : op ≠ 0) (ready : s.life = .ready) :=
    starts op known (.inr ⟨other, ready⟩)
  exact ⟨fun uninit => starts 0 (by decide) (.inl ⟨rfl, uninit⟩), inReady 1 (by decide) (by decide),
    inReady 2 (by decide) (by decide), inReady 3 (by decide) (by decide), inReady 4 (by decide) (by decide),
    inReady 5 (by decide) (by decide)⟩

end Sys2Proof.Proofs
end

section
/-! PROOFS. The timed wait (R103): one test of it, and the run of a wait that nothing disturbs (R196, R199). -/

namespace Sys2Proof.Proofs

open Sys2Proof.Machine Sys2Proof.Safety

/-! ## One test -/

section Test
variable (ms : BitVec 16) (s : State)

/-- The execution that begins a wait tests right after capturing `T0`: no time has gone by. -/
theorem elapsed_begun : ((s.setRegs (s.regs.setT0 s.env.now)).elapsed (s.regs.setT0 s.env.now).t0.val).toNat = 0 := by
  simp [State.elapsed]

theorem execWait_begins (begins : s.held = false) (pos : 0 < ms.toNat) :
    execWait ms s = .next { s with regs := { s.regs with t0 := Cell.of s.env.now }, held := true } := by
  rw [execWait, if_neg (ne_true_of_eq_false begins), waitTest_hold _ _ ((elapsed_begun s).trans_lt pos)]
  rfl

theorem execWait_zero (begins : s.held = false) :
    execWait 0 s = .next { s with regs := { s.regs with t0 := Cell.of s.env.now }, upc := s.upc + 1 } := by
  rw [execWait, if_neg (ne_true_of_eq_false begins), waitTest_done _ _ (Nat.zero_le _)]
  simp only [← begins]
  rfl

theorem execWait_holds (held : s.held = true) (below : (s.elapsed s.regs.t0.val).toNat < ms.toNat) :
    execWait ms s = .next { s with undefRead := s.undefRead || !s.regs.t0.written } := by
  rw [execWait, if_pos held, waitTest_hold ms (s.noteRead s.regs.t0.written) below]
  simp only [← held]
  rfl

theorem execWait_ends (held : s.held = true) (past : ms.toNat ≤ (s.elapsed s.regs.t0.val).toNat) :
    execWait ms s = .next { s with
      held := false, upc := s.upc + 1, undefRead := s.undefRead || !s.regs.t0.written } := by
  rw [execWait, if_pos held, waitTest_done ms (s.noteRead s.regs.t0.written) past]
  rfl

end Test

/-- Settles O31. -/
theorem waitHoldsUntilElapsed : Obligations.WaitHoldsUntilElapsed := by
  intro ms s
  rw [← elapsed_toNat]
  exact ⟨fun begins zero => zero ▸ execWait_zero s begins,
    fun begins nonzero => execWait_begins ms s begins (BitVec.toNat_pos_of_ne_zero nonzero),
    fun held below => ⟨_, execWait_holds ms s held below⟩, fun held past => ⟨_, execWait_ends ms s held past⟩⟩

/-! ## The clock's draws -/

theorem drawn_add (e : Env) (m n : Nat) : drawn e (m + n) = drawn (drawn e m) n := by
  induction n with
  | zero => rfl
  | succ n ih => exact congrArg Env.tick ih

theorem drawn_succ (e : Env) (n : Nat) : drawn e (n + 1) = drawn e.tick n := (drawn_tick e n).symm

@[simp] theorem drawn_host (e : Env) (n : Nat) : (drawn e n).host = e.host := by
  induction n with
  | zero => rfl
  | succ n ih => rw [drawn, Env.tick_host, ih]

@[simp] theorem drawn_chip (e : Env) (n : Nat) : (drawn e n).chip = e.chip := by
  induction n with
  | zero => rfl
  | succ n ih => rw [drawn, Env.tick_chip, ih]

theorem advanced_monotone (e : Env) : Monotone (advanced e) := monotone_nat_of_le_succ fun n => advanced_mono e n 1

/-- While advances are given, they are the ones drawn, in order. -/
theorem drawn_given (ds rest : List Word) (e : Env) (given : e.ticks = ds ++ rest) :
    drawn e ds.length = { e with now := ds.foldl (· + ·) e.now, ticks := rest } := by
  induction ds generalizing e with
  | nil => obtain rfl : e.ticks = rest := given; rfl
  | cons d ds ih =>
    have drawn_d := Env.tick_cons e d (ds ++ rest) given
    rw [List.length_cons, drawn_succ, ih e.tick (by rw [drawn_d]), drawn_d]
    rfl

theorem advanced_given (ds rest : List Word) (e : Env) (given : e.ticks = ds ++ rest) :
    advanced e ds.length = (ds.map BitVec.toNat).sum := by
  induction ds generalizing e with
  | nil => rfl
  | cons d ds ih =>
    have drawn_d := Env.tick_cons e d (ds ++ rest) given
    have step : (e.tick.now - e.now).toNat = d.toNat := by
      rw [drawn_d, BitVec.add_comm, BitVec.add_sub_cancel]
    rw [List.length_cons, advanced, ih e.tick (by rw [drawn_d]), step, List.map_cons, List.sum_cons]

/-- The same with the advances summed. -/
theorem drawn_given_sum (ds rest : List Word) (e : Env) (given : e.ticks = ds ++ rest) :
    drawn e ds.length = { e with now := e.now + BitVec.ofNat 32 (ds.map BitVec.toNat).sum, ticks := rest } := by
  have now := drawn_now e ds.length
  rw [advanced_given ds rest e given, drawn_given ds rest e given] at now
  rw [drawn_given ds rest e given, ← now]

/-- Within the range of `now_ms` the elapsed time is the advance. -/
theorem drawn_elapsed (e : Env) (n : Nat) (range : advanced e n < 2 ^ 32) :
    ((drawn e n).now - e.now).toNat = advanced e n := by
  rw [drawn_now, BitVec.add_comm, BitVec.add_sub_cancel, BitVec.toNat_ofNat, Nat.mod_eq_of_lt range]

/-! ## Runs -/

theorem run_add {M : Host.Core} (m n : Nat) {s u : M.State} (h : M.run m s = .next u) :
    M.run (m + n) s = M.run n u := by
  induction m generalizing s with
  | zero =>
    obtain rfl := Host.Outcome.next.inj h
    rw [Nat.zero_add]
  | succ m ih =>
    rw [Nat.succ_add]
    rw [Host.Core.run] at h ⊢
    split at h
    next => exact ih h
    all_goals cases h

theorem run_snoc {n : Nat} {s u t : State} (before : Host.Core.run Sys2Proof.core n s = .next u)
    (h : step u = .next t) :
    Host.Core.run Sys2Proof.core (n + 1) s = .next t :=
  (run_add (M := Sys2Proof.core) n 1 before).trans (run_succ (M := Sys2Proof.core) 0 h)

/-- A step begins by a draw of the clock alone when no frame is in the slot and the host does nothing. -/
theorem beginStep_silent (s : State) (noFrame : s.frame = none) (silent : s.env.host = []) :
    beginStep s = { s with rspValid := false, env := s.env.tick } := by
  have host : hostAfter s.ready s.env.host = s.env.tick.host := by rw [Env.tick_host, silent]; rfl
  rw [beginStep_eq, host, ← noFrame]

/-! ## A wait that nothing disturbs -/

/-- The sequencer is about to begin the `WAIT ms` at `UPC`, the host doing nothing. -/
structure BeginsWait (ms : BitVec 16) (s : State) : Prop where
  noFrame : s.frame = none
  busy : s.busy = true
  begins : s.held = false
  silent : s.env.host = []
  read : s.rom.read s.upc.toNat = some (UWord.ofImm 0x1 0 ms)

/-- The wait begun from `s` is holding, the environment being `e`. -/
def waiting (s : State) (e : Env) : State :=
  { s with rspValid := false, regs := { s.regs with t0 := Cell.of s.env.tick.now }, held := true, env := e }

/-- The wait begun from `s` is over, the environment being `e`. -/
def waited (s : State) (e : Env) : State :=
  { s with upc := s.upc + 1, rspValid := false, regs := { s.regs with t0 := Cell.of s.env.tick.now }, env := e }

theorem waiting_elapsed (s : State) (n : Nat) (range : advanced s.env.tick n < 2 ^ 32) :
    ((waiting s (drawn s.env.tick n)).elapsed (waiting s (drawn s.env.tick n)).regs.t0.val).toNat =
      advanced s.env.tick n := drawn_elapsed s.env.tick n range

section Wait
variable {ms : BitVec 16} {s : State} (wait : BeginsWait ms s)
include wait

theorem step_of_wait (u : State) (rom : u.rom = s.rom) (upc : u.upc = s.upc) (noFrame : u.frame = none)
    (busy : u.busy = true) (silent : u.env.host = []) :
    step u = execWait ms { u with rspValid := false, env := u.env.tick } := by
  rw [step_running u _ (.wait ms) (by simp [resetNext, silent]) noFrame busy (by rw [rom, upc]; exact wait.read)
    (decodeUop_uword (.wait ms) ⟨rfl, rfl⟩), beginStep_silent u noFrame silent]
  rfl

theorem step_beginsWait (pos : 0 < ms.toNat) : step s = .next (waiting s s.env.tick) := by
  exact (step_of_wait wait s rfl rfl wait.noFrame wait.busy wait.silent).trans (execWait_begins ms _ wait.begins pos)

/-- `WAIT 0` is over as it begins. -/
theorem step_waitZero (zero : ms = 0) : step s = .next (waited s s.env.tick) := by
  subst zero
  exact (step_of_wait wait s rfl rfl wait.noFrame wait.busy wait.silent).trans (execWait_zero _ wait.begins)

theorem step_waiting (n : Nat) :
    step (waiting s (drawn s.env.tick n)) = execWait ms (waiting s (drawn s.env.tick (n + 1))) := by
  rw [step_of_wait wait (waiting s _) rfl rfl wait.noFrame wait.busy (by simp [waiting, wait.silent])]
  rfl

theorem step_waiting_holds (n : Nat) (below : advanced s.env.tick (n + 1) < ms.toNat) :
    step (waiting s (drawn s.env.tick n)) = .next (waiting s (drawn s.env.tick (n + 1))) := by
  have range : advanced s.env.tick (n + 1) < 2 ^ 32 := by have := ms.isLt; omega
  rw [step_waiting wait, execWait_holds ms _ rfl (by rwa [waiting_elapsed s _ range])]
  simp [waiting]

theorem step_waiting_ends (n : Nat) (past : ms.toNat ≤ advanced s.env.tick (n + 1))
    (range : advanced s.env.tick (n + 1) < 2 ^ 32) :
    step (waiting s (drawn s.env.tick n)) = .next (waited s (drawn s.env.tick (n + 1))) := by
  rw [step_waiting wait, execWait_ends ms _ rfl (by rwa [waiting_elapsed s _ range])]
  simp [waiting, waited, wait.begins]

/-- The wait holds at every test before the clock's advances reach its operand. -/
theorem run_waiting (n : Nat) (below : advanced s.env.tick n < ms.toNat) :
    Host.Core.run Sys2Proof.core (n + 1) s = .next (waiting s (drawn s.env.tick n)) := by
  induction n with
  | zero => exact run_succ (M := Sys2Proof.core) 0 (step_beginsWait wait below)
  | succ n ih =>
    have earlier := (advanced_monotone s.env.tick n.le_succ).trans_lt below
    exact run_snoc (ih earlier) (step_waiting_holds wait n below)

/-- The wait is over at the first test at which they have reached it. -/
theorem run_waited (n : Nat) (first : ∀ j < n, advanced s.env.tick j < ms.toNat)
    (past : ms.toNat ≤ advanced s.env.tick n) (range : advanced s.env.tick n < 2 ^ 32) :
    Host.Core.run Sys2Proof.core (n + 1) s = .next (waited s (drawn s.env.tick n)) := by
  cases n with
  | zero =>
    have zero : ms = 0 := BitVec.eq_of_toNat_eq (Nat.le_zero.mp past)
    exact run_succ (M := Sys2Proof.core) 0 (step_waitZero wait zero)
  | succ n => exact run_snoc (run_waiting wait n (first n n.lt_succ_self)) (step_waiting_ends wait n past range)

/-- The same for given advances, the last of which is the one that ends the wait. -/
theorem run_waited_given (ds rest : List Word) (last : Word) (given : s.env.tick.ticks = ds ++ last :: rest)
    (below : (ds.map BitVec.toNat).sum < ms.toNat) (past : ms.toNat ≤ (ds.map BitVec.toNat).sum + last.toNat)
    (range : (ds.map BitVec.toNat).sum + last.toNat < 2 ^ 32) :
    Host.Core.run Sys2Proof.core (ds.length + 2) s = .next (waited s (drawn s.env.tick (ds.length + 1))) := by
  have before := advanced_given ds (last :: rest) s.env.tick given
  have total : advanced s.env.tick (ds.length + 1) = (ds.map BitVec.toNat).sum + last.toNat := by
    have all := advanced_given (ds ++ [last]) rest s.env.tick (by simp [given])
    simpa using all
  refine run_waited wait (ds.length + 1) (fun j earlier => ?_) (total ▸ past) (total ▸ range)
  have mono := advanced_monotone s.env.tick (Nat.le_of_lt_succ earlier)
  rw [before] at mono
  exact mono.trans_lt below

end Wait

/-- Settles O32: the draws after the first are the given ones, and their sum reaches `ms` with the last. -/
theorem waitEndsAtTheFirstTestPastItsTime : Obligations.WaitEndsAtTheFirstTestPastItsTime := by
  intro ms s first last ds rest noFrame busy begins silent read ticks below past range
  have begun := Env.tick_cons s.env first _ ticks
  have given : s.env.tick.ticks = ds ++ last :: rest := by rw [begun]
  refine ⟨_, run_waited_given ⟨noFrame, busy, begins, silent, read⟩ ds rest last given below past range, ?_⟩
  have all : s.env.tick.ticks = (ds ++ [last]) ++ rest := by simp [given]
  have env := drawn_given_sum (ds ++ [last]) rest s.env.tick all
  simp only [List.length_append, List.length_singleton, List.map_append, List.sum_append, List.map_singleton,
    List.sum_singleton] at env
  rw [waited, env, begun]

/-- Settles O33. -/
theorem stoppedClockHangsAWait : Obligations.StoppedClockHangsAWait := by
  intro ms s n rest nonzero noFrame busy begins silent read ticks
  cases n with
  | zero => exact ⟨s, rfl, rfl, busy, rfl, rfl⟩
  | succ n =>
    have begun := Env.tick_cons s.env 0 _ ticks
    have stopped : advanced s.env.tick n = 0 := by
      simpa using advanced_given (List.replicate n 0) rest s.env.tick (by rw [begun]; rfl)
    have below : advanced s.env.tick n < ms.toNat := stopped ▸ BitVec.toNat_pos_of_ne_zero nonzero
    refine ⟨_, run_waiting ⟨noFrame, busy, begins, silent, read⟩ n below, rfl, busy, rfl, ?_⟩
    show (drawn s.env.tick n).now = s.env.now
    rw [drawn_now, stopped, begun]
    simp

/-- Settles O59: the wait ends at the first test past its time, which comes no later than the `n`-th draw. -/
theorem advancingClockEndsAWait : Obligations.AdvancingClockEndsAWait := by
  intro ms s n noFrame busy begins silent read past range
  have reached : ∃ k, ms.toNat ≤ advanced s.env.tick k := ⟨n, past⟩
  have soon : Nat.find reached ≤ n := Nat.find_min' reached past
  refine ⟨Nat.find reached + 1, _, Nat.succ_le_succ soon,
    run_waited ⟨noFrame, busy, begins, silent, read⟩ _ (fun j earlier => Nat.not_le.mp (Nat.find_min reached earlier))
      (Nat.find_spec reached) ((advanced_monotone s.env.tick soon).trans_lt range), rfl, ?_, ?_⟩
  · simp [waited, silent]
  · simp [waited]

end Sys2Proof.Proofs
end

section
/-! PROOFS. The words of the reference micro-ROM, index by index (R69 to R73, R112). -/

namespace Sys2Proof.Proofs

open Sys2Proof.Machine

/-! ## Words as numbers -/

/-- A `Write` entry's word: opcode and `x` zero, then the register and the value (R90). -/
theorem uword_wr (reg val : Byte) : uword (.wr reg val) = BitVec.ofNat 24 (reg.toNat * 256 + val.toNat) := by
  apply BitVec.eq_of_toNat_eq
  have := reg.isLt; have := val.isLt
  refine (UWord.toNat_ofFields 0 0 reg val).trans ?_
  rw [BitVec.toNat_ofNat]
  simp
  omega

/-- A branch's word: opcode 6, the condition, the target (R71, R73). -/
theorem ofImm_label (cond : BitVec 4) (n : Nat) (fits : n < 65536) :
    UWord.ofImm 0x6 cond (label n) = BitVec.ofNat 24 (0x600000 + cond.toNat * 0x10000 + n) := by
  apply BitVec.eq_of_toNat_eq
  have := cond.isLt
  rw [UWord.toNat_ofImm, label, BitVec.toNat_ofNat, BitVec.toNat_ofNat]
  simp
  omega

/-! ## Reading the ROM -/

section Reading
variable (t : CalTab)

theorem reference_read_of_program {k : Nat} {o : Option Instr} (at_k : (refProgram t)[k]? = o) :
    (Rom.reference t).read k = o.map uword := by rw [Rom.read_reference, at_k]

theorem reference_read_end {k : Nat} (past : CalTab.p4 t + 5 ≤ k) : (Rom.reference t).read k = none := by
  rw [Rom.read_reference, List.getElem?_eq_none (by rwa [refProgram_length])]
  rfl

/-- A calibration list that stands in the program from `first` on is replayed by its entries' words. -/
theorem reference_read_entries {first : Nat} {table : List CalEntry}
    (stands : ∀ j < table.length, (refProgram t)[first + j]? = table[j]?.map fun e => .wr e.reg e.val)
    (k : Nat) (e : CalEntry) (entry : table[k]? = some e) :
    (Rom.reference t).read (first + k) = some (BitVec.ofNat 24 (e.reg.toNat * 256 + e.val.toNat)) := by
  obtain ⟨inside, -⟩ := List.getElem?_eq_some_iff.mp entry
  rw [reference_read_of_program t (stands k inside), entry, ← uword_wr]
  rfl

end Reading

/-- Settles O6: each piece of the layout is read where the program has it; only the three branches need R120's bound. -/
theorem referenceRomIsTheSpecsTable : Obligations.ReferenceRomIsTheSpecsTable := by
  intro t valid rom p1 p2 p3 p4 writes
  have fits : p4 + 5 ≤ 65536 := valid_fits valid
  have branch1 (j : Nat) (h : j < 5) : rom.read (p1 + j) = _ := reference_read_of_program t (refProgram_branch1 t j h)
  have branch2 (j : Nat) (h : j < t.c.length + 8) : rom.read (p2 + j) = _ :=
    reference_read_of_program t (refProgram_branch2 t j h)
  have identity (j : Nat) (h : j < 5) : rom.read (p4 + j) = _ := reference_read_of_program t (refProgram_identity t j h)
  refine ⟨fun k => (reference_read_of_program t (refProgram_fixed t k k.isLt)).trans (by revert k; decide),
    reference_read_entries t (refProgram_calA t),
    branch1 0 (by decide), (branch1 1 (by decide)).trans (congrArg some (ofImm_label 1 (p1 + 4) (by omega))),
    branch1 2 (by decide), (branch1 3 (by decide)).trans (congrArg some (ofImm_label 0 (p1 + 5) (by omega))),
    branch1 4 (by decide), reference_read_entries t (refProgram_calB t),
    branch2 0 (by omega), (branch2 1 (by omega)).trans (congrArg some (ofImm_label 2 p3 (by omega))),
    branch2 2 (by omega), branch2 3 (by omega), branch2 4 (by omega), branch2 5 (by omega),
    reference_read_entries t (refProgram_calC t),
    reference_read_of_program t (refProgram_writeBack1 t), reference_read_of_program t (refProgram_writeBack2 t),
    reference_read_entries t (refProgram_calD1 t), reference_read_of_program t (refProgram_waitCal1 t),
    reference_read_entries t (refProgram_calD2 t), reference_read_of_program t (refProgram_waitCal2 t),
    reference_read_entries t (refProgram_calD3 t),
    identity 0 (by decide), identity 1 (by decide),
    (identity 2 (by decide)).trans (congrArg some (ofImm_label 6 (p4 + 4) (by omega))),
    identity 3 (by decide), identity 4 (by decide), fun k past => reference_read_end t past⟩

end Sys2Proof.Proofs
end

section
/-! PROOFS. One micro-op of the fixed part of the reference program, run by a silent host: where it leads, what it puts on
the trace, and what it takes of the clock and of the chip (R101, R112). -/

namespace Sys2Proof.Proofs

open Sys2Proof.Machine Sys2Proof.Safety

/-! ## The environment after draws and answers -/

/-- The environment after so many draws of the clock and so many answers of the chip. -/
def afterBus (e : Env) (draws answers : Nat) : Env := { drawn e draws with chip := e.chip.drop answers }

theorem afterBus_draws (e : Env) (draws : Nat) : afterBus e draws 0 = drawn e draws := by
  rw [afterBus, List.drop_zero, ← drawn_chip e draws]

/-- The draws do not depend on the chip's answers. -/
theorem drawn_withChip (e : Env) (chip : List Byte) (n : Nat) :
    drawn { e with chip := chip } n = { drawn e n with chip := chip } := by
  induction n with
  | zero => rfl
  | succ n ih =>
    rw [drawn, ih, drawn]
    unfold Env.tick
    cases (drawn e n).ticks <;> rfl

theorem afterBus_afterBus (e : Env) (draws answers draws' answers' : Nat) :
    afterBus (afterBus e draws answers) draws' answers' = afterBus e (draws + draws') (answers + answers') := by
  simp only [afterBus, drawn_withChip, drawn_add, List.drop_drop]

theorem afterBus_tick (e : Env) (draws answers : Nat) :
    (afterBus e draws answers).tick = afterBus e (draws + 1) answers := by
  have drawn := afterBus_afterBus e draws answers 1 0
  rwa [afterBus_draws] at drawn

theorem exchangeAll_env (s : State) (tx : List Byte) :
    (exchangeAll s tx).2.env = afterBus s.env tx.length tx.length := by
  induction tx generalizing s with
  | nil => rfl
  | cons b rest ih =>
    have first : (exchange s b).2.env = afterBus s.env 1 1 := by simp [exchange, afterBus, drawn, Env.dropAnswer]
    rw [exchangeAll_cons, ih, first, afterBus_afterBus, List.length_cons, Nat.add_comm 1]

theorem xfer_env (s : State) (tx : List Byte) : (xfer s tx).2.env = afterBus s.env (tx.length + 1) tx.length := by
  rw [xfer_eq, State.releaseChip_env, State.tick_env, exchangeAll_env, afterBus_tick, State.selectChip_env]

/-! ## Some steps from one index to another -/

/-- From `s`, in `steps` steps, to the index `k` of the reference program: the events added, the draws of the clock and the
answers of the chip taken on the way; lifecycle state and response kept. -/
structure Reaches (tab : CalTab) (s : State) (steps : Nat) (evs : List Event) (draws answers k : Nat) (t : State) :
    Prop where
  run : Host.Core.run Sys2Proof.core steps s = .next t
  runs : RunsAt tab k t
  adds : Adds s t evs
  env : t.env = afterBus s.env draws answers
  life : t.life = s.life
  rspStatus : t.rspStatus = s.rspStatus
  rspData : t.rspData = s.rspData
  rspValid : t.rspValid = false

theorem Reaches.trans {tab : CalTab} {s t u : State} {n n' : Nat} {evs evs' : List Event} {d d' a a' k k' : Nat}
    (h₁ : Reaches tab s n evs d a k t) (h₂ : Reaches tab t n' evs' d' a' k' u) :
    Reaches tab s (n + n') (evs ++ evs') (d + d') (a + a') k' u where
  run := (run_add (M := Sys2Proof.core) n n' h₁.run).trans h₂.run
  runs := h₂.runs
  adds := adds_trans h₁.adds h₂.adds
  env := by rw [h₂.env, h₁.env, afterBus_afterBus]
  life := h₂.life.trans h₁.life
  rspStatus := h₂.rspStatus.trans h₁.rspStatus
  rspData := h₂.rspData.trans h₁.rspData
  rspValid := h₂.rspValid

section Micro
variable {tab : CalTab} {k : Nat} {s : State} {i : Instr} (runs : RunsAt tab k s) (at_k : progFixed[k]? = some i)

section At
include at_k

theorem index_of_fixed : k < 0x27 := by
  obtain ⟨inside, -⟩ := List.getElem?_eq_some_iff.mp at_k
  rwa [progFixed_length] at inside

theorem legal_of_fixed : LegalUop i := by
  obtain ⟨j, at_k', checked⟩ := fixed_checked CalTab.least k (index_of_fixed at_k)
  obtain rfl := Option.some.inj (at_k.symm.trans at_k')
  exact checked.legal

theorem read_of_fixed (tab : CalTab) : (Rom.reference tab).read k = some (uword i) := by
  rw [reference_read_of_program tab ((refProgram_fixed tab k (index_of_fixed at_k)).trans at_k)]
  rfl

end At

include runs

theorem runsAt_beginStep_env : (beginStep s).env = s.env.tick := by
  rw [beginStep_silent s runs.noFrame runs.host]

theorem runsAt_beginStep_host : (beginStep s).env.host = [] := by
  rw [runsAt_beginStep_env runs, Env.tick_host, runs.host]

theorem runsAt_next {a : UAddr} (below : k < 0x27) (upc : a = s.upc + 1) : a.toNat = k + 1 := by
  rw [upc, BitVec.toNat_add, runs.upc]
  show (k + 1) % 65536 = k + 1
  omega

/-- A step whose outcome is the begun state but for `UPC`, the working registers, the mark and the bus. -/
theorem reaches_step {evs : List Event} {draws answers k' : Nat} {t : State} {a : UAddr} {r : Regs} {mark : Bool}
    (h : step s = .next t) (moved : OnlyBusMoved { beginStep s with upc := a, regs := r, undefRead := mark } t)
    (adds : Adds s t evs) (env : t.env = afterBus s.env draws answers) (upc : a.toNat = k') :
    Reaches tab s 1 evs draws answers k' t ∧ t.regs = r := by
  rw [onlyBusMoved_iff] at moved
  obtain ⟨life, at_a, busy, csN, rspStatus, rspData, rspValid, regs, held, -, host, rom, frame⟩ := moved
  have runs' : RunsAt tab k' t := ⟨rom.trans runs.rom, frame, busy.trans runs.busy, at_a ▸ upc, csN.trans runs.chipSelect,
    held.trans runs.held, host.trans (runsAt_beginStep_host runs)⟩
  exact ⟨⟨run_succ (M := Sys2Proof.core) 0 h, runs', adds, env, life, rspStatus, rspData, rspValid⟩, regs⟩

include at_k

theorem step_fixed : step s = exec i (beginStep s) :=
  runsAt_step runs _ i (read_of_fixed at_k tab) (decodeUop_uword i (legal_of_fixed at_k))

/-- A micro-op that moves `UPC` and the working registers only. -/
theorem reaches_core {k' : Nat} {a : UAddr} {r : Regs} {mark : Bool}
    (meaning : exec i (beginStep s) = .next { beginStep s with upc := a, regs := r, undefRead := mark })
    (upc : a.toNat = k') :
    ∃ t, Reaches tab s 1 [] 1 0 k' t ∧ t.regs = r := by
  have env : (beginStep s).env = afterBus s.env 1 0 := by rw [runsAt_beginStep_env runs, afterBus_draws]; rfl
  exact ⟨_, reaches_step (a := a) (r := r) (mark := mark) runs ((step_fixed runs at_k).trans meaning)
    (OnlyBusMoved.refl _) (adds_nil rfl) env upc⟩

/-- A micro-op that makes one transfer of `tx`, answered by `rx`, and puts `f rx` of it into the registers. -/
theorem reaches_transfer (tx : List Byte) (f : List Byte → Regs → Regs)
    (meaning : ∀ b, exec i b = .next (transfer b tx fun rx u => (u.setRegs (f rx u.regs)).advance)) {rx rest : List Byte}
    (chip : s.env.chip = rx ++ rest) (length : rx.length = tx.length) :
    ∃ t, Reaches tab s 1 (window tx rx) (tx.length + 2) tx.length (k + 1) t ∧ t.regs = f rx s.regs := by
  obtain ⟨rx', t, sent, answered, adds, moved⟩ := transfer_window (beginStep s) tx f (· + 1) runs.chipSelect
  obtain rfl : rx' = rx := answered.2 rx rest length (by rwa [runsAt_beginStep_env runs, Env.tick_chip])
  have env : t.env = afterBus s.env (tx.length + 2) tx.length := by
    have first : s.env.tick = afterBus s.env 1 0 := (afterBus_draws s.env 1).symm
    rw [← sent, transfer_high (beginStep s) tx _ runs.chipSelect]
    refine (xfer_env (beginStep s) tx).trans ?_
    rw [runsAt_beginStep_env runs, first, afterBus_afterBus, Nat.zero_add, Nat.add_comm 1]
  exact ⟨t, reaches_step (a := s.upc + 1) (r := f rx' s.regs) (mark := s.undefRead) runs
    ((step_fixed runs at_k).trans ((meaning _).trans (congrArg _ sent))) moved adds env
    (runsAt_next runs (index_of_fixed at_k) rfl)⟩

/-! ## The micro-ops of the two polling loops -/

theorem reaches_taken {cond written : Bool} {target : UAddr}
    (meaning : exec i (beginStep s) = .next (branch cond target ((beginStep s).noteRead written)))
    (taken : cond = true) : ∃ t, Reaches tab s 1 [] 1 0 target.toNat t ∧ t.regs = s.regs :=
  reaches_core runs at_k (meaning.trans (congrArg _ (branch_noteRead_taken taken ..))) rfl

theorem reaches_notTaken {cond written : Bool} {target : UAddr}
    (meaning : exec i (beginStep s) = .next (branch cond target ((beginStep s).noteRead written)))
    (notTaken : ¬cond = true) : ∃ t, Reaches tab s 1 [] 1 0 (k + 1) t ∧ t.regs = s.regs := by
  refine reaches_core runs at_k (meaning.trans (congrArg _ (branch_noteRead ..))) ?_
  rw [if_neg notTaken]
  exact runsAt_next runs (index_of_fixed at_k) rfl

/-- `RD` (R92). -/
theorem reaches_rd {reg echo v : Byte} {dst : Dst} {rest : List Byte} (legal : regOk reg = true) (rd : i = .rd reg dst)
    (chip : s.env.chip = echo :: v :: rest) :
    ∃ t, Reaches tab s 1 (window [reg, 0] [echo, v]) 4 2 (k + 1) t ∧ t.regs = s.regs.afterRead dst [echo, v] := by
  subst rd
  exact reaches_transfer runs at_k (rFrameBytes reg) (fun rx r => r.afterRead dst rx)
    (fun _ => congrArg _ (if_pos legal)) (rx := [echo, v]) chip rfl

/-- `END` that keeps the lifecycle state (R110). -/
theorem step_endKeep {status : Status} {result : ResultSel} (ends : i = .endOp status result .keep) :
    ∃ t, step s = .next t ∧ Adds s t [.rsp status.code (endData status result s.regs)] ∧
      t.life = s.life ∧ t.busy = false ∧ t.csN = true ∧ t.regs = s.regs := by
  subst ends
  have responds := execEnd_responds status result .keep (beginStep s) (legal_of_fixed at_k).1 runs.chipSelect
  exact ⟨_, (step_fixed runs at_k).trans responds, ⟨_, rfl, rfl⟩, rfl, rfl, runs.chipSelect, rfl⟩

end Micro

theorem Reaches.chip {tab : CalTab} {s t : State} {n : Nat} {evs : List Event} {draws answers k : Nat}
    (h : Reaches tab s n evs draws answers k t) : t.env.chip = s.env.chip.drop answers := by rw [h.env]; rfl

/-- A command answered after some steps. -/
theorem Reaches.answered {tab : CalTab} {s u : State} {n : Nat} {evs : List Event} {draws answers k : Nat}
    {status : Status} {result : ResultSel} (h : Reaches tab s n evs draws answers k u)
    (at_k : progFixed[k]? = some (.endOp status result .keep)) :
    ∃ t, Host.Core.run Sys2Proof.core (n + 1) s = .next t ∧
      Adds s t (evs ++ [.rsp status.code (endData status result u.regs)]) ∧
      t.life = s.life ∧ t.busy = false ∧ t.csN = true ∧ t.regs = u.regs := by
  obtain ⟨t, ends, adds, life, busy, high, regs⟩ := step_endKeep h.runs at_k rfl
  exact ⟨t, run_snoc h.run ends, adds_trans h.adds adds, life.trans h.life, busy, high, regs⟩

/-! ## The back-off of a round -/

theorem runsAt_beginsWait {tab : CalTab} {k : Nat} {u : State} {ms : BitVec 16} (runs : RunsAt tab k u)
    (at_k : progFixed[k]? = some (.wait ms)) : BeginsWait ms u :=
  ⟨runs.noFrame, runs.busy, runs.held, runs.host, by rw [runs.rom, runs.upc]; exact read_of_fixed at_k tab⟩

theorem reaches_waited {tab : CalTab} {k : Nat} {u : State} {ms : BitVec 16} (runs : RunsAt tab k u)
    (at_k : progFixed[k]? = some (.wait ms)) {n : Nat}
    (run : Host.Core.run Sys2Proof.core (n + 1) u = .next (waited u (drawn u.env.tick n))) :
    Reaches tab u (n + 1) [] (n + 1) 0 (k + 1) (waited u (drawn u.env.tick n)) where
  run := run
  runs := ⟨runs.rom, runs.noFrame, runs.busy, runsAt_next runs (index_of_fixed at_k) rfl, runs.chipSelect, runs.held,
    by simp [waited, runs.host]⟩
  adds := adds_nil rfl
  env := by rw [afterBus_draws, drawn_succ]; rfl
  life := rfl
  rspStatus := rfl
  rspData := rfl
  rspValid := rfl

section BackOff
variable {tab : CalTab} {s u : State} {n : Nat} {evs : List Event} {draws answers k : Nat} {ms : BitVec 16} {d : Word}
  {before ds later : List Word} (round : Reaches tab s n evs draws answers k u)
  (at_k : progFixed[k]? = some (.wait ms)) (given : s.env.ticks = d :: (before ++ (ds ++ later)))
  (length : before.length = draws)
include round given length

/-- The clock as the back-off begins: the round's draws are gone, the ones of the wait are to come. -/
theorem backOff_begins :
    u.env.tick.ticks = ds ++ later ∧ u.env.tick.now = before.foldl (· + ·) (s.env.now + d) := by
  have clock := drawn_given (d :: before) (ds ++ later) s.env given
  rw [List.length_cons, length] at clock
  rw [round.env, afterBus_tick, afterBus, clock]
  exact ⟨rfl, rfl⟩

include at_k

/-- While the advances since the wait began are below its operand, nothing happens. -/
theorem backOff_holds (below : (ds.map BitVec.toNat).sum < ms.toNat) :
    ∃ t, Host.Core.run Sys2Proof.core (ds.length + (n + 1)) s = .next t ∧ Adds s t evs ∧
      t.upc = BitVec.ofNat 16 k ∧ t.busy = true ∧ t.csN = true ∧ t.rspValid = false := by
  obtain ⟨ticks, -⟩ := backOff_begins round given length
  have holds := run_waiting (runsAt_beginsWait round.runs at_k) ds.length (by rwa [advanced_given ds later _ ticks])
  have upc : u.upc = BitVec.ofNat 16 k := by rw [← round.runs.upc, BitVec.ofNat_toNat, BitVec.setWidth_eq]
  have run := (run_add (M := Sys2Proof.core) n _ round.run).trans holds
  rw [Nat.add_left_comm] at run
  exact ⟨_, run, round.adds, upc, round.runs.busy, round.runs.chipSelect, rfl⟩

/-- Once they reach it, the block is back at the loop head. -/
theorem backOff_returns {head : UAddr} (jump : progFixed[k + 1]? = some (.jmp head)) {last next : Word}
    {more : List Word} (more_eq : later = last :: next :: more) (below : (ds.map BitVec.toNat).sum < ms.toNat)
    (past : ms.toNat ≤ (ds.map BitVec.toNat).sum + last.toNat)
    (range : (ds.map BitVec.toNat).sum + last.toNat < 2 ^ 32) :
    ∃ t, Host.Core.run Sys2Proof.core (ds.length + (n + 3)) s = .next t ∧ RunsAt tab head.toNat t ∧ Adds s t evs ∧
      t.life = s.life ∧ t.rspStatus = s.rspStatus ∧ t.rspData = s.rspData ∧ t.rspValid = false ∧
      t.env.ticks = more ∧ t.env.chip = s.env.chip.drop answers ∧
      t.regs = { u.regs with t0 := Cell.of (before.foldl (· + ·) (s.env.now + d)) } := by
  obtain ⟨ticks, now⟩ := backOff_begins round given length
  subst more_eq
  have elapsed := reaches_waited round.runs at_k
    (run_waited_given (runsAt_beginsWait round.runs at_k) ds (next :: more) last ticks below past range)
  obtain ⟨t, back, regs⟩ := reaches_core elapsed.runs jump rfl rfl
  have whole := round.trans (elapsed.trans back)
  have clock := drawn_given ((d :: before) ++ (ds ++ [last, next])) more s.env (by simp [given])
  refine ⟨t, ?_, whole.runs, by simpa using whole.adds, whole.life, whole.rspStatus, whole.rspData, whole.rspValid, ?_,
    whole.chip, ?_⟩
  · rw [← whole.run]
    congr 1
    omega
  · have draws_eq : draws + (ds.length + 1 + 1 + 1) = ((d :: before) ++ (ds ++ [last, next])).length := by
      simp [← length]
      omega
    rw [whole.env, afterBus, draws_eq, clock]
  · rw [regs, ← now]
    rfl

end BackOff

end Sys2Proof.Proofs
end

section
/-! PROOFS. A round of GET_MOTION and of GET_MOTION_SLOW from the loop head (R151 to R154, R160 to R164). -/

namespace Sys2Proof.Proofs

open Sys2Proof.Machine Sys2Proof.Safety

/-! ## The loop head -/

section Head
variable {tab : CalTab} {k : Nat} {s : State} {target : UAddr} {d : Word} {ticks : List Word} (runs : RunsAt tab k s)
  (at_k : progFixed[k]? = some (.btmo target)) (given : s.env.ticks = d :: ticks)
include runs given

theorem beginStep_tmo_iff :
    (beginStep s).tmo = true ↔ s.regs.arg.val.toNat ≤ (s.env.now + d - s.regs.tstart.val).toNat := by
  rw [State.tmo, State.elapsed, decide_eq_true_iff, runsAt_beginStep_env runs, Env.tick_cons s.env d ticks given]
  rfl

include at_k

theorem head_timesOut (elapsed : s.regs.arg.val.toNat ≤ (s.env.now + d - s.regs.tstart.val).toNat)
    (answers : progFixed[target.toNat]? = some (.endOp .timeout .none .keep)) :
    ∃ t, Host.Core.run Sys2Proof.core 2 s = .next t ∧ Adds s t [.rsp 2 0] ∧
      t.life = s.life ∧ t.busy = false ∧ t.csN = true ∧ t.regs = s.regs := by
  obtain ⟨u, out, regs⟩ := reaches_taken runs at_k rfl ((beginStep_tmo_iff runs given).mpr elapsed)
  rw [← regs]
  exact out.answered answers

theorem head_goesOn (running : (s.env.now + d - s.regs.tstart.val).toNat < s.regs.arg.val.toNat) :
    ∃ t, Reaches tab s 1 [] 1 0 (k + 1) t ∧ t.regs = s.regs :=
  reaches_notTaken runs at_k rfl fun out => absurd ((beginStep_tmo_iff runs given).mp out) (Nat.not_le.mpr running)

end Head

/-! ## GET_MOTION -/

theorem burstFrame_vector (frame : Vector Byte 13) : burstFrame frame.toList = frame :=
  Vector.toList_inj.mp (burstFrame_toList frame.toList frame.length_toList)

/-- The round's B frame, up to the quality gate (R154). -/
theorem motion_samples {tab : CalTab} {d : Word} {ticks : List Word} {s : State} (runs : RunsAt tab 0x000A s)
    (given : s.env.ticks = d :: ticks) (running : (s.env.now + d - s.regs.tstart.val).toNat < s.regs.arg.val.toNat)
    {frame : Vector Byte 13} {rest : List Byte} (chip : s.env.chip = frame.toList ++ rest) :
    ∃ t, Reaches tab s 2 (window (burstBytes regBurst) frame.toList) 16 13 0x000C t ∧
      t.regs = { s.regs with fb := Cell.of frame } := by
  obtain ⟨u, on, regs⟩ := head_goesOn runs rfl given running
  obtain ⟨t, sampled, regs'⟩ := reaches_transfer on.runs rfl (burstBytes regBurst) (fun rx r => r.setFb (burstFrame rx))
    (fun _ => rfl) (on.chip.trans chip) frame.length_toList
  refine ⟨t, on.trans sampled, ?_⟩
  rw [regs', regs, burstFrame_vector]
  rfl

/-- Settles O57. -/
theorem getMotionEveryRound : Obligations.GetMotionEveryRound := by
  intro tab d ticks s runs given elapsed
  refine ⟨fun out => head_timesOut runs rfl given out rfl, ?_⟩
  intro running frame rest chip sampled
  obtain ⟨u, samples, regs⟩ := motion_samples runs given running chip
  have gate : (beginStep u).qok = true ↔ 0x19 < (frame[7]).toNat := by
    rw [qok_iff]
    show 0x19 < (u.regs.fb.val[7]).toNat ↔ _
    rw [regs]
    rfl
  constructor
  · intro good
    obtain ⟨v, passes, regs'⟩ := reaches_taken samples.runs (target := 0x000F) rfl rfl (gate.mpr good)
    obtain ⟨t, run, adds, life, busy, high, regs''⟩ := (samples.trans passes).answered (result := .burst) rfl
    rw [regs', regs] at adds regs''
    rw [List.append_nil] at adds
    exact ⟨t, run, adds, life, busy, high, regs''⟩
  · intro bad before ds later split length waited below
    obtain ⟨v, fails, regs'⟩ := reaches_notTaken samples.runs (target := 0x000F) rfl rfl
      fun good => absurd (gate.mp good) (Nat.not_lt.mpr bad)
    have round := samples.trans fails
    rw [List.append_nil] at round
    subst split
    refine ⟨backOff_holds round rfl given length below, ?_⟩
    intro last next more later_eq past range
    have returns := backOff_returns round rfl given length (head := 0x000A) rfl later_eq below past range
    rw [regs', regs, chip, List.drop_left' frame.length_toList] at returns
    exact returns

/-! ## GET_MOTION_SLOW -/

/-- Five polled bytes overwrite all of `PB`. -/
theorem pb_overwritten (pb : Vector (Cell Byte) 5) (c0 c1 c2 c3 c4 : Cell Byte) :
    ((((pb.set 0 c0).set 1 c1).set 2 c2).set 3 c3).set 4 c4 = #v[c0, c1, c2, c3, c4] := by
  ext j inside
  interval_cases j <;> simp

/-- The round's five R frames, up to the data-ready gate (R162). -/
theorem slow_samples {tab : CalTab} {d : Word} {ticks : List Word} {s : State} (runs : RunsAt tab 0x0012 s)
    (given : s.env.ticks = d :: ticks) (running : (s.env.now + d - s.regs.tstart.val).toNat < s.regs.arg.val.toNat)
    {e0 v0 e1 v1 e2 v2 e3 v3 e4 v4 : Byte} {rest : List Byte}
    (chip : s.env.chip = [e0, v0, e1, v1, e2, v2, e3, v3, e4, v4] ++ rest) :
    ∃ t, Reaches tab s 6 (window [0x02, 0] [e0, v0] ++ window [0x03, 0] [e1, v1] ++ window [0x04, 0] [e2, v2] ++
        window [0x05, 0] [e3, v3] ++ window [0x06, 0] [e4, v4]) 21 10 0x0018 t ∧
      t.regs = { s.regs with
        rb := Cell.of v4, pb := #v[Cell.of v0, Cell.of v1, Cell.of v2, Cell.of v3, Cell.of v4] } := by
  obtain ⟨u, on, regs⟩ := head_goesOn runs rfl given running
  obtain ⟨u0, read0, regs0⟩ := reaches_rd on.runs rfl rfl rfl (on.chip.trans chip)
  have to0 := on.trans read0
  obtain ⟨u1, read1, regs1⟩ := reaches_rd to0.runs rfl rfl rfl (to0.chip.trans (congrArg _ chip))
  have to1 := to0.trans read1
  obtain ⟨u2, read2, regs2⟩ := reaches_rd to1.runs rfl rfl rfl (to1.chip.trans (congrArg _ chip))
  have to2 := to1.trans read2
  obtain ⟨u3, read3, regs3⟩ := reaches_rd to2.runs rfl rfl rfl (to2.chip.trans (congrArg _ chip))
  have to3 := to2.trans read3
  obtain ⟨t, read4, regs4⟩ := reaches_rd to3.runs rfl rfl rfl (to3.chip.trans (congrArg _ chip))
  refine ⟨t, to3.trans read4, ?_⟩
  rw [regs4, regs3, regs2, regs1, regs0, regs, ← pb_overwritten s.regs.pb]
  rfl

/-- Settles O58. -/
theorem getMotionSlowEveryRound : Obligations.GetMotionSlowEveryRound := by
  intro tab d ticks s runs given elapsed
  refine ⟨fun out => head_timesOut runs rfl given out rfl, ?_⟩
  intro running e0 v0 e1 v1 e2 v2 e3 v3 e4 v4 rest chip sampled frame
  obtain ⟨u, samples, regs⟩ := slow_samples runs given running chip
  have gate : (beginStep u).drdy = true ↔ 0x80 ≤ v0.toNat := by
    rw [← getLsbD_seven_iff v0]
    show (u.regs.pb[0]).val.getLsbD 7 = true ↔ _
    rw [regs]
    rfl
  constructor
  · intro ready
    obtain ⟨v, passes, regs'⟩ := reaches_taken samples.runs (target := 0x001B) rfl rfl (gate.mpr ready)
    obtain ⟨t, run, adds, life, busy, high, regs''⟩ := (samples.trans passes).answered (result := .polled) rfl
    rw [regs', regs] at adds regs''
    rw [List.append_nil] at adds
    exact ⟨t, run, adds, life, busy, high, regs''⟩
  · intro stale before ds later split length waited below
    obtain ⟨v, fails, regs'⟩ := reaches_notTaken samples.runs (target := 0x001B) rfl rfl
      fun ready => absurd (gate.mp ready) (Nat.not_le.mpr stale)
    have round := samples.trans fails
    rw [List.append_nil] at round
    subst split
    refine ⟨backOff_holds round rfl given length below, ?_⟩
    intro last next more later_eq past
    have range : (ds.map BitVec.toNat).sum + last.toNat < 2 ^ 32 := by have := last.isLt; omega
    have returns := backOff_returns round rfl given length (head := 0x0012) rfl later_eq below past range
    rw [regs', regs, chip] at returns
    exact returns

end Sys2Proof.Proofs
end

section
/-! PROOFS. Micro-ops run one after another by a silent host, on any micro-ROM: the events each adds to the trace, where it
leads, and what it leaves in the working registers (R80, R90 to R92, R101, R104 to R108). -/

namespace Sys2Proof.Proofs

open Sys2Proof.Machine Sys2Proof.Safety

/-! ## A micro-op about to run -/

/-- The sequencer is about to execute the micro-op at index `k` of `rom`, with `r` in the working registers, chip-select
high, and the host doing nothing. -/
structure Running (rom : Rom) (k : Nat) (r : Regs) (s : State) : Prop where
  rom : s.rom = rom
  noFrame : s.frame = none
  busy : s.busy = true
  upc : s.upc = label k
  chipSelect : s.csN = true
  regs : s.regs = r
  silent : s.env.host = []

/-- The legal micro-op `i` stands at index `k` of `rom`. -/
structure Placed (rom : Rom) (k : Nat) (i : Instr) : Prop where
  inside : k < 65536
  read : rom.read k = some (uword i)
  legal : LegalUop i

theorem label_toNat_of_lt {n : Nat} (inside : n < 65536) : (label n).toNat = n := by
  rw [label, BitVec.toNat_ofNat, Nat.mod_eq_of_lt inside]

theorem eq_label {a : UAddr} {n : Nat} (index : a.toNat = n) : a = label n := by
  rw [label, ← index, BitVec.ofNat_toNat, BitVec.setWidth_eq]

theorem label_succ (n : Nat) : label n + 1 = label (n + 1) := (BitVec.ofNat_add n 1).symm

/-! ## Some steps -/

/-- From `s`, in `steps` steps, to index `k` with `r` in the working registers: the events added, and how many answers of the
chip were taken. Nothing else moves but the bus and the response pulse; in particular no unwritten register is read. -/
structure Executes (s : State) (steps : Nat) (evs : List Event) (answers k : Nat) (r : Regs) (t : State) : Prop where
  run : Host.Core.run Sys2Proof.core steps s = .next t
  adds : Adds s t evs
  moved : OnlyBusMoved { s with upc := label k, regs := r, rspValid := t.rspValid } t
  chip : t.env.chip = s.env.chip.drop answers

namespace Executes
variable {s t u : State} {n n' k k' m m' : Nat} {evs evs' : List Event} {r r' : Regs}

theorem trans (first : Executes s n evs m k r t) (second : Executes t n' evs' m' k' r' u) :
    Executes s (n + n') (evs ++ evs') (m + m') k' r' u where
  run := (run_add (M := Sys2Proof.core) n n' first.run).trans second.run
  adds := adds_trans first.adds second.adds
  moved := by
    have moved₁ := first.moved
    have moved₂ := second.moved
    rw [onlyBusMoved_iff] at *
    simp_all
  chip := by rw [second.chip, first.chip, List.drop_drop]

variable (h : Executes s n evs m k r t)
include h

theorem upc : t.upc = label k := by rw [h.moved]
theorem busy : t.busy = s.busy := by rw [h.moved]
theorem csN : t.csN = s.csN := by rw [h.moved]
theorem regs : t.regs = r := by rw [h.moved]
theorem undefRead : t.undefRead = s.undefRead := by rw [h.moved]

theorem running {rom : Rom} {k₀ : Nat} {r₀ : Regs} (before : Running rom k₀ r₀ s) : Running rom k r t := by
  have moved := h.moved
  rw [onlyBusMoved_iff] at moved
  obtain ⟨-, upc, busy, csN, -, -, -, regs, -, -, host, rom, frame⟩ := moved
  exact ⟨rom.trans before.rom, frame.trans before.noFrame, busy.trans before.busy, upc, csN.trans before.chipSelect, regs,
    host.trans before.silent⟩

end Executes

/-! ## One step -/

section Step
variable {rom : Rom} {k : Nat} {r : Regs} {s : State} {i : Instr} (running : Running rom k r s)
include running

theorem upc_label_succ : s.upc + 1 = label (k + 1) := by rw [running.upc, label_succ]

theorem executes_nothing : Executes s 0 [] 0 k r s where
  run := rfl
  adds := adds_nil rfl
  moved := by rw [onlyBusMoved_iff]; simp [running.upc, running.regs]
  chip := rfl

/-- A step whose outcome is the begun state but for `UPC`, the working registers and the bus. -/
theorem executes_step {evs : List Event} {answers k' : Nat} {r' : Regs} {t : State} (h : step s = .next t)
    (moved : OnlyBusMoved { beginStep s with upc := label k', regs := r' } t) (adds : Adds s t evs)
    (chip : t.env.chip = s.env.chip.drop answers) : Executes s 1 evs answers k' r' t where
  run := run_succ (M := Sys2Proof.core) 0 h
  adds := adds
  moved := by
    rw [beginStep_silent s running.noFrame running.silent] at moved
    rw [onlyBusMoved_iff] at *
    simp_all
  chip := chip

variable (placed : Placed rom k i)
include placed

theorem step_placed : step s = exec i (beginStep s) := by
  refine step_running s (uword i) i (by simp [resetNext, running.silent]) running.noFrame running.busy ?_
    (decodeUop_uword i placed.legal)
  rw [running.rom, running.upc, label_toNat_of_lt placed.inside, placed.read]

/-- A micro-op that reads written registers only, and moves `UPC` and the working registers only. -/
theorem executes_core {written : Bool} {r' : Regs} {k' : Nat}
    (meaning : exec i (beginStep s) = .next ((((beginStep s).noteRead written).setRegs r').setUpc (label k')))
    (known : written = true) : ∃ t, Executes s 1 [] 0 k' r' t := by
  rw [known, noteRead_true] at meaning
  exact ⟨_, executes_step running ((step_placed running placed).trans meaning) (OnlyBusMoved.refl _) (adds_nil rfl)
    (beginStep_chip s)⟩

/-- A micro-op that makes one transfer of `tx` and puts `f` of the bytes received into the working registers. -/
theorem executes_transfer (tx : List Byte) (f : List Byte → Regs → Regs)
    (meaning : exec i (beginStep s) =
      .next (transfer (beginStep s) tx fun rx u => (u.setRegs (f rx u.regs)).advance)) :
    ∃ rx t, Answered s tx.length rx ∧ Executes s 1 (window tx rx) tx.length (k + 1) (f rx r) t := by
  obtain ⟨rx, t, sent, answered, adds, moved⟩ := transfer_window (beginStep s) tx f (· + 1) running.chipSelect
  rw [Answered, beginStep_chip] at answered
  have upc : (beginStep s).upc + 1 = label (k + 1) := (upc_label_succ running :)
  have regs : (beginStep s).regs = r := running.regs
  rw [upc, regs] at moved
  refine ⟨rx, t, answered, executes_step running
    ((step_placed running placed).trans (meaning.trans (congrArg _ sent))) moved adds ?_⟩
  rw [← sent, transfer_high (beginStep s) tx _ running.chipSelect]
  exact (xfer_chip (beginStep s) tx).trans (congrArg _ (beginStep_chip s))

end Step

/-! ## The micro-ops of a calibration program -/

section MicroOps
variable {rom : Rom} {k : Nat} {r : Regs} {s : State} (running : Running rom k r s)
include running

/-- `WR` (R90). -/
theorem executes_wr {reg val : Byte} (placed : Placed rom k (.wr reg val)) :
    ∃ rx t, rx.length = 2 ∧ Executes s 1 (window [reg ||| 0x80, val] rx) 2 (k + 1) r t := by
  obtain ⟨rx, t, answered, sent⟩ := executes_transfer running placed (wFrameBytes reg val) (fun _ r => r)
    (congrArg _ (if_pos placed.legal.1))
  exact ⟨rx, t, answered.1, sent⟩

/-- `WRR` of a register that has been written (R91). -/
theorem executes_wrr {reg : Byte} {src : Src} (placed : Placed rom k (.wrr reg src))
    (known : (r.readSrc src).written = true) :
    ∃ rx t, rx.length = 2 ∧ Executes s 1 (window [reg ||| 0x80, (r.readSrc src).val] rx) 2 (k + 1) r t := by
  obtain rfl : (beginStep s).regs = r := running.regs
  have runs : (regOk reg && (beginStep s).csN) = true := Bool.and_eq_true_iff.mpr ⟨placed.legal.1, running.chipSelect⟩
  have meaning : exec (.wrr reg src) (beginStep s) = .next (transfer _ _ _) := congrArg _ (if_pos runs)
  rw [known, noteRead_true] at meaning
  obtain ⟨rx, t, answered, sent⟩ := executes_transfer running placed
    (wFrameBytes reg ((beginStep s).regs.readSrc src).val) (fun _ r => r) meaning
  exact ⟨rx, t, answered.1, sent⟩

/-- `RD` of given answers (R92). -/
theorem executes_rd {reg echo v : Byte} {dst : Dst} {rest : List Byte} (placed : Placed rom k (.rd reg dst))
    (chip : s.env.chip = echo :: v :: rest) :
    ∃ t, Executes s 1 (window [reg, 0x00] [echo, v]) 2 (k + 1) (r.afterRead dst [echo, v]) t := by
  obtain ⟨rx, t, answered, sent⟩ := executes_transfer running placed (rFrameBytes reg)
    (fun rx r => r.afterRead dst rx) (congrArg _ (if_pos placed.legal.1))
  obtain rfl : rx = [echo, v] := answered.2 [echo, v] rest rfl chip
  exact ⟨t, sent⟩

/-- `JMP` (R104). -/
theorem executes_jmp {k' : Nat} (placed : Placed rom k (.jmp (label k'))) : ∃ t, Executes s 1 [] 0 k' r t := by
  obtain rfl := running.regs
  exact executes_core running placed (written := true) (by rw [noteRead_true]; rfl) rfl

/-- A conditional branch whose condition is `p` and reads written registers only (R109). -/
theorem executes_branch {i : Instr} {k' : Nat} {cond written : Bool} {p : Prop} [Decidable p] (placed : Placed rom k i)
    (meaning : exec i (beginStep s) = .next (branch cond (label k') ((beginStep s).noteRead written)))
    (known : written = true) (condition : cond = true ↔ p) :
    ∃ t, Executes s 1 [] 0 (if p then k' else k + 1) r t := by
  obtain rfl := running.regs
  refine executes_core running placed (meaning.trans ?_) known
  rw [apply_ite label, ← upc_label_succ running, branch_noteRead_iff condition]
  rfl

/-- `BB7` (R105). -/
theorem executes_bb7 {k' : Nat} (placed : Placed rom k (.bb7 (label k'))) (known : r.rb.written = true) :
    ∃ t, Executes s 1 [] 0 (if 0x80 ≤ r.rb.val.toNat then k' else k + 1) r t := by
  obtain rfl := running.regs
  exact executes_branch running placed rfl known (getLsbD_seven_iff _)

/-- `BNZ` (R106). -/
theorem executes_bnz {k' : Nat} (placed : Placed rom k (.bnz (label k'))) (known : r.rb.written = true) :
    ∃ t, Executes s 1 [] 0 (if r.rb.val ≠ 0 then k' else k + 1) r t := by
  obtain rfl := running.regs
  exact executes_branch running placed rfl known decide_eq_true_iff

/-- `XF1` (R107). -/
theorem executes_xf1 (placed : Placed rom k .xf1) (known : r.c1.written = true) :
    ∃ t, Executes s 1 [] 0 (k + 1) (r.setC1 (xf1 r.c1.val)) t := by
  obtain rfl := running.regs
  refine executes_core running placed ?_ known
  rw [← upc_label_succ running]
  rfl

/-- `XF2` (R108). -/
theorem executes_xf2 (placed : Placed rom k .xf2) (known : r.c2.written = true) :
    ∃ t, Executes s 1 [] 0 (k + 1) (r.setC2 (xf2 r.c2.val)) t := by
  obtain rfl := running.regs
  refine executes_core running placed ?_ known
  rw [← upc_label_succ running]
  rfl

end MicroOps

/-! ## A run of `WR` words -/

/-- The entries of `table`, standing one after another from index `k` on, are replayed in order (R125). -/
theorem executes_replay {rom : Rom} {k : Nat} {r : Regs} {s : State} (table : List CalEntry)
    (running : Running rom k r s)
    (placed : ∀ (j : Nat) (e : CalEntry), table[j]? = some e → Placed rom (k + j) (.wr e.reg e.val)) :
    ∃ (answers : List (Byte × Byte)) (t : State), answers.length = table.length ∧
      Executes s table.length (replayEvents table answers) (2 * table.length) (k + table.length) r t := by
  induction table generalizing k s with
  | nil => exact ⟨[], s, rfl, executes_nothing running⟩
  | cons e rest ih =>
    obtain ⟨rx, u, length, first⟩ := executes_wr running (placed 0 e rfl)
    obtain ⟨a, b, rfl⟩ := List.length_eq_two.mp length
    have placed' (j : Nat) (e' : CalEntry) (at_j : rest[j]? = some e') : Placed rom (k + 1 + j) (.wr e'.reg e'.val) := by
      rw [Nat.add_right_comm]
      exact placed (j + 1) e' at_j
    obtain ⟨answers, t, lengths, others⟩ := ih (first.running running) placed'
    have whole := first.trans others
    rw [Nat.add_comm 1, Nat.add_comm 2, Nat.add_right_comm k] at whole
    exact ⟨(a, b) :: answers, t, congrArg (· + 1) lengths, whole⟩

/-- Settles O43. -/
theorem calibrationTablesAreReplayed : Obligations.CalibrationTablesAreReplayed := by
  intro table n s legal read fits noFrame busy high silent upc
  have running : Running s.rom n s.regs s := ⟨rfl, noFrame, busy, eq_label upc, high, rfl, silent⟩
  have placed (j : Nat) (e : CalEntry) (entry : table[j]? = some e) : Placed s.rom (n + j) (.wr e.reg e.val) := by
    obtain ⟨inside, rfl⟩ := List.getElem?_eq_some_iff.mp entry
    exact ⟨by omega, by rw [read j _ entry, uword_wr], (regOk_iff _).mpr (legal _ (List.getElem_mem inside)), rfl⟩
  obtain ⟨answers, t, length, replayed⟩ := executes_replay table running placed
  exact ⟨answers, t, length, replayed.run, replayed.adds, replayed.moved⟩

end Sys2Proof.Proofs
end

section
/-! PROOFS. The two branches of the calibration on the reference ROM (R122, R123). -/

namespace Sys2Proof.Proofs

open Sys2Proof.Machine Sys2Proof.Safety

theorem runsAt_running {tab : CalTab} {k : Nat} {s : State} (runs : RunsAt tab k s) :
    Running (Rom.reference tab) k s.regs s :=
  ⟨runs.rom, runs.noFrame, runs.busy, eq_label runs.upc, runs.chipSelect, rfl, runs.host⟩

section Valid
variable {tab : CalTab} (valid : CalTab.valid tab = true)
include valid

theorem placed_reference {k : Nat} {i : Instr} (at_k : (refProgram tab)[k]? = some i) :
    Placed (Rom.reference tab) k i where
  inside := by
    obtain ⟨inside, -⟩ := List.getElem?_eq_some_iff.mp at_k
    rw [refProgram_length] at inside
    exact inside.trans_le (valid_fits valid)
  read := reference_read_of_program tab at_k
  legal := refProgram_legal valid i (List.mem_of_getElem? at_k)

theorem placed_branch1 {i : Instr} (j : Nat) (h : j < 5) (at_j : (progBranch1 tab)[j]? = some i) :
    Placed (Rom.reference tab) (CalTab.p1 tab + j) i :=
  placed_reference valid ((refProgram_branch1 tab j h).trans at_j)

theorem placed_branch2 {i : Instr} (j : Nat) (h : j < 6) (at_j : (progBranch2 tab)[j]? = some i) :
    Placed (Rom.reference tab) (CalTab.p2 tab + j) i :=
  placed_reference valid ((refProgram_branch2 tab j (by omega)).trans at_j)

theorem placed_calC (j : Nat) (e : CalEntry) (entry : tab.c[j]? = some e) :
    Placed (Rom.reference tab) (CalTab.p2 tab + 6 + j) (.wr e.reg e.val) := by
  obtain ⟨inside, -⟩ := List.getElem?_eq_some_iff.mp entry
  exact placed_reference valid (by rw [refProgram_calC tab j inside, entry]; rfl)

/-! ## Branch 1 -/

section Branch1
variable {s : State} (running : Running (Rom.reference tab) (CalTab.p1 tab) s.regs s)
include running

/-- The read of 0x67 and the test of its bit 7 lead to one of the two arms. -/
theorem branch1_chooses {e v : Byte} {rest : List Byte} (chip : s.env.chip = e :: v :: rest) :
    ∃ t, Executes s 2 (window [0x67, 0x00] [e, v]) 2 (if 0x80 ≤ v.toNat then CalTab.p1 tab + 4 else CalTab.p1 tab + 2)
      { s.regs with rb := Cell.of v } t := by
  obtain ⟨u, reads⟩ := executes_rd running (placed_branch1 valid 0 (by decide) rfl) chip
  obtain ⟨t, tests⟩ := executes_bb7 (reads.running running) (placed_branch1 valid 1 (by decide) rfl) rfl
  have chosen := reads.trans tests
  rw [List.append_nil] at chosen
  exact ⟨t, chosen⟩

/-- Each arm writes its value to 0x48 and leads to `P1 + 5`. -/
theorem branch1_writes {e v : Byte} {rest : List Byte} (chip : s.env.chip = e :: v :: rest) :
    ∃ rx t, rx.length = 2 ∧ Executes s (if 0x80 ≤ v.toNat then 3 else 4)
      (window [0x67, 0x00] [e, v] ++ window [0xC8, if 0x80 ≤ v.toNat then 0x04 else 0x02] rx) 4 (CalTab.p1 tab + 5)
      { s.regs with rb := Cell.of v } t := by
  obtain ⟨u, chosen⟩ := branch1_chooses valid running chip
  by_cases set : 0x80 ≤ v.toNat
  · rw [if_pos set] at chosen
    obtain ⟨rx, t, length, writes⟩ := executes_wr (chosen.running running) (placed_branch1 valid 4 (by decide) rfl)
    rw [if_pos set, if_pos set]
    exact ⟨rx, t, length, chosen.trans writes⟩
  · rw [if_neg set] at chosen
    obtain ⟨rx, w, length, writes⟩ := executes_wr (chosen.running running) (placed_branch1 valid 2 (by decide) rfl)
    have written := chosen.trans writes
    obtain ⟨t, jumps⟩ := executes_jmp (written.running running) (placed_branch1 valid 3 (by decide) rfl)
    have met := written.trans jumps
    rw [List.append_nil] at met
    rw [if_neg set, if_neg set]
    exact ⟨rx, t, length, met⟩

end Branch1

/-! ## Branch 2 -/

section Branch2
variable {s : State} (running : Running (Rom.reference tab) (CalTab.p2 tab) s.regs s)
include running

/-- The read of 0x73 and its test lead past the branch or into it. -/
theorem branch2_chooses {e v : Byte} {rest : List Byte} (chip : s.env.chip = e :: v :: rest) :
    ∃ t, Executes s 2 (window [0x73, 0x00] [e, v]) 2 (if v ≠ 0 then CalTab.p3 tab else CalTab.p2 tab + 2)
      { s.regs with rb := Cell.of v } t := by
  obtain ⟨u, reads⟩ := executes_rd running (placed_branch2 valid 0 (by decide) rfl) chip
  obtain ⟨t, tests⟩ := executes_bnz (reads.running running) (placed_branch2 valid 1 (by decide) rfl) rfl
  have chosen := reads.trans tests
  rw [List.append_nil] at chosen
  exact ⟨t, chosen⟩

/-- With zero read, `C1` and `C2` are read and transformed. -/
theorem branch2_transforms {e e1 a e2 b : Byte} {rest : List Byte}
    (chip : s.env.chip = e :: 0 :: e1 :: a :: e2 :: b :: rest) :
    ∃ t, Executes s 6 (window [0x73, 0x00] [e, 0] ++ window [0x70, 0x00] [e1, a] ++ window [0x71, 0x00] [e2, b]) 6
      (CalTab.p2 tab + 6) { s.regs with rb := Cell.of b, c1 := Cell.of (xf1 a), c2 := Cell.of (xf2 b) } t := by
  obtain ⟨u0, entered⟩ := branch2_chooses valid running chip
  rw [if_neg (by decide)] at entered
  obtain ⟨u1, reads1⟩ := executes_rd (entered.running running) (placed_branch2 valid 2 (by decide) rfl)
    (entered.chip.trans (congrArg _ chip))
  have to1 := entered.trans reads1
  obtain ⟨u2, reads2⟩ := executes_rd (to1.running running) (placed_branch2 valid 3 (by decide) rfl)
    (to1.chip.trans (congrArg _ chip))
  have to2 := to1.trans reads2
  obtain ⟨u3, transforms1⟩ := executes_xf1 (to2.running running) (placed_branch2 valid 4 (by decide) rfl) rfl
  have to3 := to2.trans transforms1
  obtain ⟨t, transforms2⟩ := executes_xf2 (to3.running running) (placed_branch2 valid 5 (by decide) rfl) rfl
  have to4 := to3.trans transforms2
  rw [List.append_nil, List.append_nil] at to4
  exact ⟨t, to4⟩

/-- Then `CAL_C` is replayed and the two results are written back. -/
theorem branch2_writesBack {e e1 a e2 b : Byte} {rest : List Byte}
    (chip : s.env.chip = e :: 0 :: e1 :: a :: e2 :: b :: rest) :
    ∃ (answers : List (Byte × Byte)) (r1 r2 : List Byte) (t : State),
      answers.length = tab.c.length ∧ r1.length = 2 ∧ r2.length = 2 ∧
      Executes s (tab.c.length + 8)
        (window [0x73, 0x00] [e, 0] ++ window [0x70, 0x00] [e1, a] ++ window [0x71, 0x00] [e2, b] ++
          replayEvents tab.c answers ++ window [0xF0, xf1 a] r1 ++ window [0xF1, xf2 b] r2)
        (6 + 2 * tab.c.length + 2 + 2) (CalTab.p3 tab)
        { s.regs with rb := Cell.of b, c1 := Cell.of (xf1 a), c2 := Cell.of (xf2 b) } t := by
  obtain ⟨u0, transformed⟩ := branch2_transforms valid running chip
  obtain ⟨answers, u1, lengths, replays⟩ := executes_replay tab.c (transformed.running running) (placed_calC valid)
  have replayed := transformed.trans replays
  obtain ⟨r1, u2, length1, writes1⟩ := executes_wrr (replayed.running running)
    (placed_reference valid (refProgram_writeBack1 tab)) rfl
  have to1 := replayed.trans writes1
  have second : (refProgram tab)[CalTab.p2 tab + 6 + tab.c.length + 1]? = some (.wrr 0x71 .c2) := by
    rw [← refProgram_writeBack2, Nat.add_right_comm]
  obtain ⟨r2, t, length2, writes2⟩ := executes_wrr (to1.running running) (placed_reference valid second) rfl
  have whole := to1.trans writes2
  have steps : 6 + tab.c.length + 1 + 1 = tab.c.length + 8 := by omega
  have leaves : CalTab.p2 tab + 6 + tab.c.length + 1 + 1 = CalTab.p3 tab := by unfold CalTab.p3; omega
  rw [steps, leaves] at whole
  exact ⟨answers, r1, r2, t, lengths, length1, length2, whole⟩

end Branch2

end Valid

/-! ## The statements -/

/-- Settles O44. -/
theorem calibrationBranchOne : Obligations.CalibrationBranchOne := by
  intro tab e v rest s valid runs chip
  obtain ⟨rx, t, length, meets⟩ := branch1_writes valid (runsAt_running runs) chip
  obtain ⟨-, before2, before3, before4⟩ := positions tab
  have upc : t.upc.toNat = CalTab.p1 tab + 5 := by rw [meets.upc, label_toNat valid (by omega)]
  exact ⟨rx, t, length, meets.run, meets.adds, upc, meets.busy.trans runs.busy, meets.csN.trans runs.chipSelect,
    meets.regs, meets.undefRead⟩

/-- Settles O45. -/
theorem calibrationBranchTwo : Obligations.CalibrationBranchTwo := by
  intro tab e v rest s valid runs chip
  obtain ⟨-, -, -, before4⟩ := positions tab
  have p3 : (label (CalTab.p3 tab)).toNat = CalTab.p3 tab := label_toNat valid (by omega)
  constructor
  · intro nonzero
    obtain ⟨t, skips⟩ := branch2_chooses valid (runsAt_running runs) chip
    rw [if_pos nonzero] at skips
    exact ⟨t, skips.run, skips.adds, skips.upc ▸ p3, skips.busy.trans runs.busy, skips.regs⟩
  · rintro rfl e1 a e2 b rest' rfl
    obtain ⟨answers, r1, r2, t, lengths, length1, length2, whole⟩ := branch2_writesBack valid (runsAt_running runs) chip
    exact ⟨answers, r1, r2, t, lengths, length1, length2, whole.run, whole.adds, whole.upc ▸ p3,
      whole.busy.trans runs.busy, whole.regs⟩

end Sys2Proof.Proofs
end

section
/-! PROOFS. INIT's reset pulse (R132, R133): the command accepted, then the micro-ops at 0x001D to 0x001F, run by a silent
host, with the stamps of what they put on the trace. -/

namespace Sys2Proof.Proofs

open Sys2Proof.Machine Sys2Proof.Safety

/-! ## One step, with its stamps -/

/-- The idle block `s` after it has accepted the command presented. -/
def accepted (op : BitVec 3) (arg : Word) (s : State) : State :=
  { s with
    upc := entry op, busy := true, rspValid := false, regs := s.regs.setArg arg, env := { s.env.tick with host := [] },
    trace := s.trace ++ [{ ev := .cmd op arg, time := s.env.tick.now }] }

/-- The block `s` after `CSLO` has driven chip-select low. -/
def selected (s : State) : State :=
  { s with
    csN := false, upc := s.upc + 1, rspValid := false, env := s.env.tick,
    trace := s.trace ++ [{ ev := .csl, time := s.env.tick.now }] }

/-- The block `s` after `CSHI` has driven chip-select high. -/
def released (s : State) : State :=
  { s with
    csN := true, upc := s.upc + 1, rspValid := false, env := s.env.tick,
    trace := s.trace ++ [{ ev := .csh, time := s.env.tick.now }] }

theorem step_accepts {tab : CalTab} {op : BitVec 3} {arg : Word} {s : State} (presents : Presents tab op arg s)
    (allowed : op = 0 ∧ s.life = .uninit ∨ op ≠ 0 ∧ s.life = .ready) (known : ¬(op = 6 ∨ op = 7)) :
    step s = .next (accepted op arg s) := by
  obtain ⟨-, noFrame, notBusy, -, host⟩ := presents
  have left : hostAfter s.ready s.env.host = [] := by rw [host, ready_of_idle s noFrame notBusy]; rfl
  rw [step_command s op arg [] noFrame notBusy host, dispatch_runs op arg (beginStep s) notBusy known allowed,
    beginStep_eq, left, ← noFrame]
  rfl

section Silent
variable {s : State} (noFrame : s.frame = none) (busy : s.busy = true) (silent : s.env.host = [])
include noFrame busy silent

theorem step_silent {i : Instr} (read : s.rom.read s.upc.toNat = some (uword i)) (legal : LegalUop i) :
    step s = exec i { s with rspValid := false, env := s.env.tick } := by
  rw [step_running s (uword i) i (by simp [resetNext, silent]) noFrame busy read (decodeUop_uword i legal),
    beginStep_silent s noFrame silent]

theorem step_cslo (read : s.rom.read s.upc.toNat = some (uword .cslo)) (high : s.csN = true) :
    step s = .next (selected s) :=
  (step_silent noFrame busy silent read ⟨rfl, rfl⟩).trans (execCslo_high _ high)

theorem step_cshi (read : s.rom.read s.upc.toNat = some (uword .cshi)) (low : s.csN = false) :
    step s = .next (released s) :=
  (step_silent noFrame busy silent read ⟨rfl, rfl⟩).trans (execCshi_low _ low)

end Silent

/-! ## The pulse -/

section Pulse
variable {tab : CalTab} {arg : Word} {s : State} (presents : Presents tab 0 arg s)
include presents

/-- The ROM at an index of INIT's head. -/
theorem presents_read {k : Nat} {i : Instr} (at_k : progFixed[k]? = some i) : s.rom.read k = some (uword i) := by
  rw [presents.rom]
  exact read_of_fixed at_k tab

theorem run_selected (uninit : s.life = .uninit) :
    Host.Core.run Sys2Proof.core 2 s = .next (selected (accepted 0 arg s)) :=
  (run_succ (M := Sys2Proof.core) 1 (step_accepts presents (.inl ⟨rfl, uninit⟩) (by decide))).trans
    (run_succ (M := Sys2Proof.core) 0 (step_cslo (s := accepted 0 arg s) presents.noFrame rfl rfl
      (presents_read presents (k := 0x1D) rfl) presents.quiescent.1))

theorem selected_beginsWait : BeginsWait tCsPulse (selected (accepted 0 arg s)) where
  noFrame := presents.noFrame
  busy := rfl
  begins := presents.quiescent.2
  silent := Env.tick_host _
  read := presents_read presents (k := 0x1E) (i := .wait tCsPulse) rfl

/-- Once the wait is over, `CSHI` releases chip-select. -/
theorem step_released (e : Env) (silent : e.host = []) :
    step (waited (selected (accepted 0 arg s)) e) = .next (released (waited (selected (accepted 0 arg s)) e)) :=
  step_cshi presents.noFrame rfl silent (presents_read presents (k := 0x1F) rfl) rfl

end Pulse

/-- The clock through the command's acceptance, `CSLO` and the first test of the wait. -/
theorem selected_clock {arg d0 d1 d2 : Word} {ticks : List Word} {s : State}
    (given : s.env.ticks = d0 :: d1 :: d2 :: ticks) :
    (selected (accepted 0 arg s)).trace =
      s.trace ++ [{ ev := .cmd 0 arg, time := s.env.now + d0 }, { ev := .csl, time := s.env.now + d0 + d1 }] ∧
    (selected (accepted 0 arg s)).env.tick =
      { s.env with now := s.env.now + d0 + d1 + d2, ticks := ticks, host := [] } := by
  have first := Env.tick_cons s.env d0 _ given
  have second : (accepted 0 arg s).env.tick =
      { s.env with now := s.env.now + d0 + d1, ticks := d2 :: ticks, host := [] } := by rw [accepted, first]; rfl
  constructor
  · rw [selected, second, accepted, first, List.append_assoc]
    rfl
  · rw [selected, second]
    rfl

/-- The draw after given advances: the ones of a wait, the last of which ended it. -/
theorem drawn_given_next {e : Env} {ds rest : List Word} {last next : Word} (given : e.ticks = ds ++ last :: next :: rest) :
    (drawn e (ds.length + 1)).tick.now = e.now + BitVec.ofNat 32 ((ds.map BitVec.toNat).sum + last.toNat) + next := by
  have drawn_all := drawn_given_sum (ds ++ [last]) (next :: rest) e (by rw [given, ← List.append_cons])
  rw [List.length_append, List.map_append, List.sum_append] at drawn_all
  exact congrArg (·.tick.now) drawn_all

/-- Settles O42: the command and `CSLO`, then the wait of 50 ms, which puts nothing on the trace, then `CSHI`. -/
theorem initBeginsWithTheResetPulse : Obligations.InitBeginsWithTheResetPulse := by
  intro tab arg d0 d1 d2 ds later s presents uninit given waited begun below
  obtain ⟨trace, clock⟩ := selected_clock (arg := arg) given
  have wait := selected_beginsWait presents
  have to_come : (selected (accepted 0 arg s)).env.tick.ticks = ds ++ later := by rw [clock]
  have from_wait (n : Nat) := run_add (M := Sys2Proof.core) 2 n (run_selected presents uninit)
  constructor
  · have holds := run_waiting wait ds.length (by rwa [advanced_given ds later _ to_come])
    have run := (from_wait _).trans holds
    rw [Nat.add_comm 2] at run
    exact ⟨_, run, trace, rfl, rfl, uninit, rfl⟩
  · rintro last d4 rest rfl past range
    have ends := run_waited_given wait ds (d4 :: rest) last to_come below past range
    have silent := (drawn_host _ (ds.length + 1)).trans ((Env.tick_host _).trans wait.silent)
    have run := (from_wait _).trans (run_snoc ends (step_released presents _ silent))
    rw [Nat.add_comm 2] at run
    have rises := drawn_given_next to_come
    rw [clock] at rises
    refine ⟨_, run, ?_, rfl, rfl, uninit, rfl⟩
    rw [← trace, ← rises, ← clock]
    rfl

end Sys2Proof.Proofs
end

section
/-! PROOFS. The identity check that ends INIT on the reference ROM (R130 to R132, R171). -/

namespace Sys2Proof.Proofs

open Sys2Proof.Machine Sys2Proof.Safety

/-! ## The micro-ops that only this program has -/

section MicroOps
variable {rom : Rom} {k : Nat} {r : Regs} {s : State} (running : Running rom k r s)
include running

/-- `BIDBAD` after both halves of the pair have been read (R131). -/
theorem executes_bidbad {k' : Nat} (placed : Placed rom k (.bidbad (label k')))
    (known : (r.pidr.written && r.revr.written) = true) :
    ∃ t, Executes s 1 [] 0 (if r.pidr.val = 0x49 ∧ r.revr.val = 0x00 then k + 1 else k') r t := by
  obtain rfl := running.regs
  have checks := executes_branch running placed rfl known ((idbad_iff _).trans not_and_or.symm)
  rw [ite_not] at checks
  exact checks

/-- `END` that reads written registers only (R110). -/
theorem step_end {status : Status} {result : ResultSel} {next : NextSel} (placed : Placed rom k (.endOp status result next))
    (known : endWritten status result r = true) :
    ∃ t, step s = .next t ∧ Adds s t [.rsp status.code (endData status result r)] ∧ t.life = NextSel.apply next s.life ∧
      t.busy = false ∧ t.csN = true ∧ t.regs = r ∧ t.undefRead = s.undefRead := by
  obtain rfl := running.regs
  have responds := execEnd_responds status result next (beginStep s) placed.legal.1 running.chipSelect
  have reads : endWritten status result (beginStep s).regs = true := known
  rw [reads, noteRead_true] at responds
  exact ⟨_, (step_placed running placed).trans responds, ⟨_, rfl, rfl⟩, rfl, rfl, running.chipSelect, rfl, rfl⟩

end MicroOps

theorem Executes.life {s t : State} {n answers k : Nat} {evs : List Event} {r : Regs} (h : Executes s n evs answers k r t) :
    t.life = s.life := by rw [h.moved]

/-- A command answered by `END` after some steps. -/
theorem Executes.ends {rom : Rom} {s u : State} {n k₀ k answers : Nat} {evs : List Event} {r₀ r : Regs} {status : Status}
    {result : ResultSel} {next : NextSel} (h : Executes s n evs answers k r u) (before : Running rom k₀ r₀ s)
    (placed : Placed rom k (.endOp status result next)) (known : endWritten status result r = true) :
    ∃ t, Host.Core.run Sys2Proof.core (n + 1) s = .next t ∧
      Adds s t (evs ++ [.rsp status.code (endData status result r)]) ∧ t.life = NextSel.apply next s.life ∧ t.busy = false ∧
      t.csN = true ∧ t.regs = r ∧ t.undefRead = s.undefRead := by
  obtain ⟨t, ends, adds, life, busy, high, regs, mark⟩ := step_end (h.running before) placed known
  rw [h.life] at life
  exact ⟨t, run_snoc h.run ends, adds_trans h.adds adds, life, busy, high, regs, mark.trans h.undefRead⟩

/-! ## The check -/

section Valid
variable {tab : CalTab} (valid : CalTab.valid tab = true)
include valid

theorem placed_identity {i : Instr} (j : Nat) (h : j < 5) (at_j : (progIdentity tab)[j]? = some i) :
    Placed (Rom.reference tab) (CalTab.p4 tab + j) i :=
  placed_reference valid ((refProgram_identity tab j h).trans at_j)

variable {s : State} (running : Running (Rom.reference tab) (CalTab.p4 tab) s.regs s)
include running

/-- The two reads and the test lead to one of the two `END`s. -/
theorem identity_chooses {e0 product e1 revision : Byte} {rest : List Byte}
    (chip : s.env.chip = e0 :: product :: e1 :: revision :: rest) :
    ∃ t, Executes s 3 (window [0x00, 0x00] [e0, product] ++ window [0x01, 0x00] [e1, revision]) 4
      (if product = 0x49 ∧ revision = 0x00 then CalTab.p4 tab + 3 else CalTab.p4 tab + 4)
      { s.regs with rb := Cell.of revision, pidr := Cell.of product, revr := Cell.of revision } t := by
  obtain ⟨u0, reads0⟩ := executes_rd running (placed_identity valid 0 (by decide) rfl) chip
  obtain ⟨u1, reads1⟩ := executes_rd (reads0.running running) (placed_identity valid 1 (by decide) rfl)
    (reads0.chip.trans (congrArg _ chip))
  have read := reads0.trans reads1
  obtain ⟨t, tests⟩ := executes_bidbad (read.running running) (placed_identity valid 2 (by decide) rfl) rfl
  have chosen := read.trans tests
  rw [List.append_nil] at chosen
  exact ⟨t, chosen⟩

end Valid

/-- Settles O46: each outcome of the test has its own `END`. -/
theorem initEndsByTheIdentityCheck : Obligations.InitEndsByTheIdentityCheck := by
  intro tab e0 product e1 revision rest s valid runs chip good
  obtain ⟨u, chosen⟩ := identity_chooses valid (runsAt_running runs) chip
  by_cases pair : good
  · rw [if_pos pair] at chosen
    rw [if_pos pair, if_pos pair]
    exact chosen.ends (runsAt_running runs) (placed_identity valid 3 (by decide) rfl) rfl
  · rw [if_neg pair] at chosen
    rw [if_neg pair, if_neg pair]
    exact chosen.ends (runsAt_running runs) (placed_identity valid 4 (by decide) rfl) rfl

end Sys2Proof.Proofs
end

section
/-! PROOFS. SET_ORIENTATION and SET_ROTATION on the reference ROM (R140 to R145). -/

namespace Sys2Proof.Proofs

open Sys2Proof.Machine Sys2Proof.Safety

/-! ## A command of the `READY` state, from its acceptance or refusal to its response -/

/-- The fixed part of the reference program does not depend on `CALTAB`, so it stands in the ROM even for a table that does
not meet R120. -/
theorem placed_fixed (tab : CalTab) {k : Nat} {i : Instr} (at_k : progFixed[k]? = some i) : Placed (Rom.reference tab) k i where
  inside := (index_of_fixed at_k).trans (by decide)
  read := read_of_fixed at_k tab
  legal := legal_of_fixed at_k

/-- The whole next state of an `END` that is reached with chip-select high (R110). -/
theorem step_endResponds {rom : Rom} {k : Nat} {r : Regs} {s : State} {status : Status} {result : ResultSel}
    {next : NextSel} (running : Running rom k r s) (placed : Placed rom k (.endOp status result next)) :
    step s = .next ((((beginStep s).noteRead (endWritten status result r)).setLife (NextSel.apply next s.life)).respond
      status (endData status result r)) := by
  obtain rfl := running.regs
  exact (step_placed running placed).trans
    (execEnd_responds status result next (beginStep s) placed.legal.1 running.chipSelect)

section Command
variable {tab : CalTab} {op : BitVec 3} {arg : Word} {s : State} (presents : Presents tab op arg s)
  (known : ¬(op = 6 ∨ op = 7)) (other : op ≠ 0)
include presents known other

/-- The lifecycle gate refuses any command but INIT outside `READY` (R100). -/
theorem command_refused (notReady : s.life ≠ .ready) :
    ∃ t, step s = .next t ∧ Adds s t [.cmd op arg, .rsp 4 0] ∧ t.life = s.life ∧ t.busy = false := by
  obtain ⟨-, noFrame, notBusy, -, host⟩ := presents
  rw [step_command s op arg [] noFrame notBusy host,
    dispatch_refused op arg (beginStep s) notBusy known (.inr ⟨other, notReady⟩)]
  exact ⟨_, rfl, ⟨_, List.append_assoc .., rfl⟩, rfl, rfl⟩

/-- In `READY` the command's program starts, and an `END` of the fixed part that it comes to answers the command. -/
theorem command_answered (ready : s.life = .ready) :
    ∃ u, Running (Rom.reference tab) (entry op).toNat (s.regs.setArg arg) u ∧
      ∀ {n answers k : Nat} {evs : List Event} {r : Regs} {v : State} {status : Status} {result : ResultSel},
        Executes u n evs answers k r v → progFixed[k]? = some (.endOp status result .keep) →
        ∃ t, Host.Core.run Sys2Proof.core (n + 2) s = .next t ∧
          Adds s t ([.cmd op arg] ++ evs ++ [.rsp status.code (endData status result r)]) ∧
          t.life = .ready ∧ t.busy = false ∧ t.csN = true ∧ t.regs = r ∧
          t.rspStatus = status.code ∧ t.rspData = endData status result r := by
  obtain ⟨u, accepted, runs, life, regs, begun⟩ := presents_runs presents (.inr ⟨other, ready⟩) known
  have running := runsAt_running runs
  rw [regs] at running
  refine ⟨u, running, fun done ends => ?_⟩
  have there := done.running running
  have responds := step_endResponds there (placed_fixed tab ends)
  exact ⟨_, (run_succ (M := Sys2Proof.core) _ accepted).trans (run_snoc done.run responds),
    adds_trans (adds_trans begun done.adds) ⟨_, rfl, rfl⟩, done.life.trans (life.trans ready), rfl, there.chipSelect,
    there.regs, rfl, rfl⟩

end Command

/-! ## The micro-ops that only these two programs have -/

/-- The rows of SET_ROTATION (R144) are those of the rotation table (R141). -/
theorem rotationMask_of_row {deg : Word} {mask : Byte}
    (row : (deg.toNat, mask) ∈ [(0, 0xE0#8), (90, 0x40#8), (180, 0x80#8), (270, 0x20#8)]) :
    rotationMask deg = some mask := by
  have rows : deg = 0 ∧ mask = 0xE0#8 ∨ deg = 90 ∧ mask = 0x40#8 ∨ deg = 180 ∧ mask = 0x80#8 ∨
      deg = 270 ∧ mask = 0x20#8 := by simpa [← BitVec.toNat_inj] using row
  obtain ⟨rfl, rfl⟩ | ⟨rfl, rfl⟩ | ⟨rfl, rfl⟩ | ⟨rfl, rfl⟩ := rows <;> rfl

section MicroOps
variable {rom : Rom} {k : Nat} {r : Regs} {s : State} (running : Running rom k r s)
include running

/-- `BARGBAD` (R142). -/
theorem executes_bargbad {k' : Nat} (placed : Placed rom k (.bargbad (label k'))) (known : r.arg.written = true) :
    ∃ t, Executes s 1 [] 0 (if r.arg.val.toNat ∈ [0, 90, 180, 270] then k + 1 else k') r t := by
  obtain rfl := running.regs
  have checks := executes_branch running placed rfl known (argbad_iff _)
  rw [ite_not] at checks
  exact checks

/-- `OMFLG` (R140). -/
theorem executes_omflg (placed : Placed rom k .omflg) (known : r.arg.written = true) :
    ∃ t, Executes s 1 [] 0 (k + 1) (r.setOm (flagMask r.arg.val)) t := by
  obtain rfl := running.regs
  refine executes_core running placed ?_ known
  rw [← upc_label_succ running]
  rfl

/-- `OMROT` of an argument in the table (R141). -/
theorem executes_omrot {mask : Byte} (placed : Placed rom k .omrot) (known : r.arg.written = true)
    (row : rotationMask r.arg.val = some mask) : ∃ t, Executes s 1 [] 0 (k + 1) (r.setOm mask) t := by
  obtain rfl := running.regs
  have masked : rotationMask (beginStep s).regs.arg.val = some mask := row
  refine executes_core running placed ?_ known
  show execOmrot (beginStep s) = _
  rw [← upc_label_succ running, execOmrot, masked]
  rfl

/-- The mask built, `WRR` sends it to the orientation register (R91). -/
theorem executes_sendsMask {mask : Byte} (built : ∃ t, Executes s 1 [] 0 (k + 1) (r.setOm mask) t)
    (placed : Placed rom (k + 1) (.wrr regOrient .om)) :
    ∃ rx t, rx.length = 2 ∧ Executes s 2 (window [0xDB, mask] rx) 2 (k + 2) (r.setOm mask) t := by
  obtain ⟨u, builds⟩ := built
  obtain ⟨rx, t, length, sent⟩ := executes_wrr (builds.running running) placed rfl
  exact ⟨rx, t, length, builds.trans sent⟩

end MicroOps

/-! ## The two commands -/

/-- Settles O38: `OMFLG`, `WRR`, `END`. -/
theorem setOrientationWritesTheMask : Obligations.SetOrientationWritesTheMask := by
  intro tab arg s presents
  refine ⟨fun ready => ?_, command_refused presents (by decide) (by decide)⟩
  obtain ⟨u, running, answered⟩ := command_answered presents (by decide) (by decide) ready
  obtain ⟨rx, v, length, sent⟩ := executes_sendsMask running
    (executes_omflg running (placed_fixed tab rfl) rfl) (placed_fixed tab rfl)
  obtain ⟨t, run, adds, life, busy, high, -, status, data⟩ := answered sent rfl
  exact ⟨rx, t, run, length, adds, life, busy, high, status, data⟩

/-- Settles O39: `BARGBAD` lets the four rows through to `OMROT` and `WRR`, and sends any other argument to the second `END`. -/
theorem setRotationWritesTheMaskOrRefuses : Obligations.SetRotationWritesTheMaskOrRefuses := by
  intro tab deg s presents
  have checked {u : State} (running : Running (Rom.reference tab) 0x04 (s.regs.setArg deg) u) :
      ∃ v, Executes u 1 [] 0 (if deg.toNat ∈ [0, 90, 180, 270] then 0x05 else 0x08) (s.regs.setArg deg) v :=
    executes_bargbad running (placed_fixed tab rfl) rfl
  refine ⟨fun mask ready row => ?_, fun ready outside => ?_, command_refused presents (by decide) (by decide)⟩
  · obtain ⟨u, running, answered⟩ := command_answered presents (by decide) (by decide) ready
    obtain ⟨v, passed⟩ := checked running
    have inside : deg.toNat ∈ [0, 90, 180, 270] := List.mem_map_of_mem (f := Prod.fst) row
    rw [if_pos inside] at passed
    have there := passed.running running
    obtain ⟨rx, w, length, sent⟩ := executes_sendsMask there
      (executes_omrot there (placed_fixed tab rfl) rfl (rotationMask_of_row row)) (placed_fixed tab rfl)
    obtain ⟨t, run, adds, life, busy, high, -⟩ := answered (passed.trans sent) rfl
    exact ⟨rx, t, run, length, adds, life, busy, high⟩
  · obtain ⟨u, running, answered⟩ := command_answered presents (by decide) (by decide) ready
    obtain ⟨v, refused⟩ := checked running
    rw [if_neg outside] at refused
    obtain ⟨t, run, adds, life, busy, high, regs, -⟩ := answered refused rfl
    exact ⟨t, run, adds, life, busy, high, (congrArg Regs.om regs :)⟩

end Sys2Proof.Proofs
end

section
/-! PROOFS. The first round of GET_MOTION and of GET_MOTION_SLOW: the command's acceptance and `TSTAMP`, then a round from the
loop head (R150 to R154, R162 to R164). -/

namespace Sys2Proof.Proofs

open Sys2Proof.Machine Sys2Proof.Safety

/-! ## From a command's acceptance to the loop head -/

/-- `s` has accepted the motion command `op` and run its `TSTAMP`: the block `v` is at the loop head, with the clock's draws
`ticks` and all of the chip's answers to come. -/
structure Started (tab : CalTab) (op : BitVec 3) (timeout : Word) (ticks : List Word) (s v : State) : Prop where
  run : Host.Core.run Sys2Proof.core 2 s = .next v
  runs : RunsAt tab ((entry op).toNat + 1) v
  adds : Adds s v [.cmd op timeout]
  life : v.life = .ready
  ticks : v.env.ticks = ticks
  chip : v.env.chip = s.env.chip
  regs : v.regs = (s.regs.setArg timeout).setTstart v.env.now

/-- `TSTAMP` (R150). -/
theorem reaches_tstamp {tab : CalTab} {k : Nat} {s : State} (runs : RunsAt tab k s) (at_k : progFixed[k]? = some .tstamp) :
    ∃ t, Reaches tab s 1 [] 1 0 (k + 1) t ∧ t.regs = s.regs.setTstart t.env.now := by
  obtain ⟨t, stamped, regs⟩ := reaches_core runs at_k rfl (runsAt_next runs (index_of_fixed at_k) rfl)
  have now : t.env = (beginStep s).env := by rw [stamped.env, afterBus_draws, runsAt_beginStep_env runs]; rfl
  exact ⟨t, stamped, by rw [regs, now]; rfl⟩

/-- A motion command accepted in `READY` comes to its loop head in two steps (R100, R150). -/
theorem command_started {tab : CalTab} {op : BitVec 3} {timeout d0 d1 : Word} {ticks : List Word} {s : State}
    (presents : Presents tab op timeout s) (ready : s.life = .ready) (given : s.env.ticks = d0 :: d1 :: ticks)
    (other : op ≠ 0) (known : ¬(op = 6 ∨ op = 7)) (first : progFixed[(entry op).toNat]? = some .tstamp) :
    ∃ v, Started tab op timeout ticks s v := by
  have allowed : op = 0 ∧ s.life = .uninit ∨ op ≠ 0 ∧ s.life = .ready := .inr ⟨other, ready⟩
  have accepts := step_accepts presents allowed known
  obtain ⟨u, accepted_u, runs, -, -, begun⟩ := presents_runs presents allowed known
  obtain rfl : accepted op timeout s = u := Host.Outcome.next.inj (accepts.symm.trans accepted_u)
  obtain ⟨v, stamped, regs⟩ := reaches_tstamp runs first
  have begun_env : (accepted op timeout s).env = { s.env with now := s.env.now + d0, ticks := d1 :: ticks, host := [] } := by
    rw [accepted, Env.tick_cons s.env d0 _ given]
  have env : v.env = { s.env with now := s.env.now + d0 + d1, ticks := ticks, host := [] } := by
    rw [stamped.env, afterBus_draws, begun_env]
    rfl
  exact ⟨v, (run_succ (M := Sys2Proof.core) 1 accepts).trans stamped.run, stamped.runs, adds_trans begun stamped.adds,
    stamped.life.trans ready, congrArg Env.ticks env, (congrArg Env.chip env :), regs⟩

namespace Started
variable {tab : CalTab} {op : BitVec 3} {timeout : Word} {ticks : List Word} {s v : State}
  (started : Started tab op timeout ticks s v)
include started

theorem arg : v.regs.arg.val = timeout := by rw [started.regs]; rfl

/-- The time since the stamp is the clock's next advance. -/
theorem elapsed (d : Word) : v.env.now + d - v.regs.tstart.val = d := by
  rw [started.regs]
  exact add_sub_cancel_left v.env.now d

/-- What a round answers, the command answers. -/
theorem answered {n : Nat} {evs : List Event} {t : State} (run : Host.Core.run Sys2Proof.core n v = .next t)
    (adds : Adds v t evs) (life : t.life = v.life) :
    Host.Core.run Sys2Proof.core (2 + n) s = .next t ∧ Adds s t ([.cmd op timeout] ++ evs) ∧ t.life = .ready :=
  ⟨(run_add (M := Sys2Proof.core) 2 n started.run).trans run, adds_trans started.adds adds, life.trans started.life⟩

/-- The first test of the timeout ends the command if the clock's next advance reaches it. -/
theorem timesOut {d : Word} {later : List Word} {target : UAddr} (given : ticks = d :: later)
    (head : progFixed[(entry op).toNat + 1]? = some (.btmo target))
    (ends : progFixed[target.toNat]? = some (.endOp .timeout .none .keep)) (out : timeout.toNat ≤ d.toNat) :
    ∃ t, Host.Core.run Sys2Proof.core 4 s = .next t ∧ Adds s t [.cmd op timeout, .rsp 2 0] ∧
      t.life = .ready ∧ t.busy = false ∧ t.regs = (s.regs.setArg timeout).setTstart v.env.now := by
  rw [← started.arg, ← started.elapsed d] at out
  obtain ⟨t, run, adds, life, busy, -, regs⟩ := head_timesOut started.runs head (started.ticks.trans given) out ends
  obtain ⟨run, adds, life⟩ := started.answered run adds life
  exact ⟨t, run, adds, life, busy, regs.trans started.regs⟩

end Started

/-! ## The two commands -/

/-- Settles O40: at the loop head the time since the stamp is `d2`, and a round that times out or qualifies ends the
command. -/
theorem getMotionFirstRound : Obligations.GetMotionFirstRound := by
  intro tab timeout d0 d1 d2 later s presents ready given
  obtain ⟨v, started⟩ := command_started presents ready given (by decide) (by decide) rfl
  obtain ⟨-, samples⟩ := getMotionEveryRound tab d2 later v started.runs started.ticks
  rw [started.arg, started.elapsed] at samples
  constructor
  · intro out
    obtain ⟨t, run, adds, life, busy, regs⟩ := started.timesOut rfl rfl rfl out
    exact ⟨t, run, adds, life, busy, by rw [regs]; rfl⟩
  · intro running frame rest chip good
    obtain ⟨passes, -⟩ := samples running frame rest (started.chip.trans chip)
    obtain ⟨t, run, adds, life, busy, high, regs⟩ := passes good
    obtain ⟨run, adds, life⟩ := started.answered run adds life
    rw [← List.append_assoc] at adds
    exact ⟨t, run, adds, life, busy, high, by rw [regs]⟩

/-- Settles O41, by the same start and a round of five R frames. -/
theorem getMotionSlowFirstRound : Obligations.GetMotionSlowFirstRound := by
  intro tab timeout d0 d1 d2 later s presents ready given
  obtain ⟨v, started⟩ := command_started presents ready given (by decide) (by decide) rfl
  obtain ⟨-, samples⟩ := getMotionSlowEveryRound tab d2 later v started.runs started.ticks
  rw [started.arg, started.elapsed] at samples
  constructor
  · intro out
    obtain ⟨t, run, adds, life, busy, regs⟩ := started.timesOut rfl rfl rfl out
    exact ⟨t, run, adds, life, busy, by rw [regs]; rfl⟩
  · intro running e0 v0 e1 v1 e2 v2 e3 v3 e4 v4 rest chip fresh
    obtain ⟨passes, -⟩ := samples running e0 v0 e1 v1 e2 v2 e3 v3 e4 v4 rest (started.chip.trans chip)
    obtain ⟨t, run, adds, life, busy, high, -⟩ := passes fresh
    obtain ⟨run, adds, life⟩ := started.answered run adds life
    exact ⟨t, run, adds, life, busy, high⟩

end Sys2Proof.Proofs
end
